-- ==== Sys2Proof/Word.lean ====
section
/-! DEFINITION. The word types of the hardware: spec/00_scope.md R7, R9 and spec/20_memory.md R60 (byte, halfword, word). -/

namespace Sys2Proof

/-- A 32bit register value or address (R7, R9). -/
abbrev Word := BitVec 32

/-- A 16bit halfword; a THUMB instruction is one (R60, R100). -/
abbrev Half := BitVec 16

/-- An 8bit byte (R60). -/
abbrev Byte := BitVec 8

/-- The three access widths of spec/20_memory.md R70: `n` in {1, 2, 4} of `MemRead(addr, n)`. -/
inductive Width where
  | byte | half | word
  deriving DecidableEq, Repr

end Sys2Proof
end

