-- ==== Sys2Proof/Machine/Bits.lean ====
section
/-! DEFINITION. Bit fields, alignment and byte order: the helpers every other file cites (spec/00_scope.md R8, R9;
spec/20_memory.md R61). A field `v[hi:lo]` is read with `v.extractLsb' lo (hi-lo+1)` and a bit `v[i]` with
`v.getLsbD i`. -/

namespace Sys2Proof

/-- `x` put at bits `lo` and up of an n-bit value (R8). -/
def place {k : Nat} (n lo : Nat) (x : BitVec k) : BitVec n := x.setWidth n <<< lo

/-- A Bool put at bit `lo` of an n-bit value (R8). -/
def placeBit (n lo : Nat) (b : Bool) : BitVec n := place n lo (BitVec.ofBool b)

/-- `zext_32(v)` (R9). -/
def zext {k : Nat} (v : BitVec k) : Word := v.setWidth 32

/-- `sext_32(v)` (R9). -/
def sext {k : Nat} (v : BitVec k) : Word := v.signExtend 32

/-- `ROR(v, k)` of R10, for k in 0..31. -/
def ror (v : Word) (k : Nat) : Word := v.rotateRight k

/-- `v AND NOT 3` (spec/10_state.md R29, spec/20_memory.md R64). -/
def alignWord (v : Word) : Word := v &&& 0xFFFFFFFC#32

/-- `v AND NOT 1` (spec/10_state.md R29, spec/20_memory.md R64). -/
def alignHalf (v : Word) : Word := v &&& 0xFFFFFFFE#32

/-- `v AND NOT 2`: the PC of THUMB formats 5, 6 and 12 (spec/10_state.md R28). -/
def clearBit1 (v : Word) : Word := v &&& 0xFFFFFFFD#32

/-- The halfword of two bytes, lowest address first: little endian (spec/20_memory.md R61). -/
def halfOfBytes (b0 b1 : Byte) : Half := place 16 8 b1 ||| place 16 0 b0

/-- The word of four bytes, lowest address first: little endian (spec/20_memory.md R61). -/
def wordOfBytes (b0 b1 b2 b3 : Byte) : Word :=
  place 32 24 b3 ||| place 32 16 b2 ||| place 32 8 b1 ||| place 32 0 b0

/-- Byte `k` of a word, as `MemWrite` lays it out (spec/20_memory.md R61). -/
def byteOf {n : Nat} (v : BitVec n) (k : Nat) : Byte := v.extractLsb' (8 * k) 8

end Sys2Proof
end

