-- ==== Sys2Proof/Config.lean ====
section
/-! DEFINITION. What an implementation fixes, and the free values: uninterpreted constants, without a body, of which
nothing can be proved but that they are values (spec/00_scope.md R10 `any`; log 5, 8, 9). -/

namespace Sys2Proof

/-- One access to an address window that is a device of the platform (spec/20_memory.md R75). -/
inductive BusEvent where
  | read  (addr : Word) (width : Width)
  | write (addr : Word) (width : Width) (value : Word)
  deriving DecidableEq, Repr

/-- The register operands of MRC and MCR as the coprocessor sees them (spec/47_arm_swap_coproc.md R351). -/
structure CoprocRegOp where
  cpopc : BitVec 3
  cn : BitVec 4
  cm : BitVec 4
  cp : BitVec 3
  deriving DecidableEq, Repr

/-- One use of an entry point of coprocessor `p` (spec/47_arm_swap_coproc.md R351). `aborted` marks a memory transfer
that ended in a data abort, after which the coprocessor's state is `any` (spec/60_exceptions.md R552). -/
inductive CoprocEvent where
  | mcr (p : BitVec 4) (op : CoprocRegOp) (value : Word)
  | mrc (p : BitVec 4) (op : CoprocRegOp)
  | cdp (p : BitVec 4) (cpopc cd cn cm : BitVec 4) (cp : BitVec 3)
  | ldc (p : BitVec 4) (long : Bool) (cd : BitVec 4) (words : List Word)
  | stc (p : BitVec 4) (long : Bool) (cd : BitVec 4) (count : Nat)
  | aborted (p : BitVec 4)
  deriving DecidableEq, Repr

/-- `VECTOR_BASE` = 00000000h (spec/00_scope.md R7, spec/92_eei_decisions.md D2). -/
def Config.vectorBase : Word := 0x00000000#32

/-- The n-th free value of a run: a value the spec leaves open (`any`). No body: nothing constrains it (log 5). -/
opaque Config.freeWord (n : Nat) : Word

/-- What a device window answers to a read, given every access made to device windows before, newest first (log 8). -/
opaque Config.deviceRead (history : List BusEvent) (addr : Word) (width : Width) : Word

/-- `Cp[p].mrc(cpopc, Cn, Cm, cp)` of R351, given everything the coprocessors were sent before, newest first (log 9). -/
opaque Config.coprocMrc (history : List CoprocEvent) (p : BitVec 4) (op : CoprocRegOp) : Word

/-- `Cp[p].stc(N, Cd, k)` of R351: the k-th word the coprocessor stores (log 9). -/
opaque Config.coprocStc (history : List CoprocEvent) (p : BitVec 4) (long : Bool) (cd : BitVec 4) (k : Nat) : Word

/-- `Cp[p].count(N, Cd)` of R351: how many words LDC or STC transfers (log 9). -/
opaque Config.coprocCount (history : List CoprocEvent) (p : BitVec 4) (long : Bool) (cd : BitVec 4) : Nat

end Sys2Proof
end

