-- ==== Sys2Proof/Syntax.lean ====
section
/-! DEFINITION. The instructions of both instruction sets: one constructor for each of the 183 rows of
spec/opcode_table.json, in the table's order (ARM rows first; a THUMB row's constructor begins with t). A field the
table fixes is not an argument; a field that only selects the row is not either. -/

namespace Sys2Proof

/-- The condition codes 0h to Eh of spec/10_state.md R45. Code Fh is no condition of this hardware (R46). -/
inductive Cond where
  | eq | ne | cs | cc | mi | pl | vs | vc | hi | ls | ge | lt | gt | le | al
  deriving DecidableEq, Repr

/-- Shift types 0 to 3 of spec/30_encoding.md R103. -/
inductive ShiftType where
  | lsl | lsr | asr | ror
  deriving DecidableEq, Repr

/-- A 4bit register field, R0..R15 (spec/30_encoding.md R103). -/
abbrev Reg := BitVec 4

/-- A 3bit THUMB register field, R0..R7 (spec/30_encoding.md R122). -/
abbrev LoReg := BitVec 3

/-- Op2, immediate: `nn` rotated right by twice `rot` (spec/30_encoding.md R104). -/
structure Op2Imm where
  rot : BitVec 4
  imm : BitVec 8
  deriving DecidableEq, Repr

/-- Op2, register shifted by a 5bit immediate (spec/30_encoding.md R103). -/
structure Op2ShImm where
  rm : Reg
  type : ShiftType
  amount : BitVec 5
  deriving DecidableEq, Repr

/-- Op2, register shifted by the low byte of a register (spec/30_encoding.md R103). -/
structure Op2ShReg where
  rm : Reg
  type : ShiftType
  rs : Reg
  deriving DecidableEq, Repr

/-- The field mask of MSR (spec/30_encoding.md R105): f bits 31-24, s bits 23-16, x bits 15-8, c bits 7-0. -/
structure FieldMask where
  f : Bool
  s : Bool
  x : Bool
  c : Bool
  deriving DecidableEq, Repr

/-- Indexing of a halfword or signed transfer: P=1 with its W bit, or P=0, where W must be zero
(spec/30_encoding.md R109). -/
inductive HalfIndex where
  | pre (wb : Bool)
  | post
  deriving DecidableEq, Repr

/-- The instructions, one constructor per row of spec/opcode_table.json. `sf` is the S bit; `up` the U bit; `pre` the P
bit; `wb` the W bit. -/
inductive Instr where
  /-- B{cond} label (R150). -/
  | b (c : Cond) (off : BitVec 24)
  /-- BL{cond} label (R151). -/
  | bl (c : Cond) (off : BitVec 24)
  /-- BX{cond} Rn (R154). -/
  | bx (c : Cond) (rn : Reg)
  /-- SWI{cond} nn (R157). -/
  | swi (c : Cond) (comment : BitVec 24)
  /-- The Undefined instruction; its free bits 24-5 and 3-0 (R160). -/
  | undefined (c : Cond) (hi : BitVec 20) (lo : BitVec 4)
  /-- AND{cond}{S} Rd,Rn,#imm32 (R190). -/
  | andImm (c : Cond) (sf : Bool) (rn rd : Reg) (o : Op2Imm)
  /-- AND{cond}{S} Rd,Rn,Rm,SSS#Is (R190). -/
  | andShImm (c : Cond) (sf : Bool) (rn rd : Reg) (o : Op2ShImm)
  /-- AND{cond}{S} Rd,Rn,Rm,SSS Rs (R190). -/
  | andShReg (c : Cond) (sf : Bool) (rn rd : Reg) (o : Op2ShReg)
  /-- EOR{cond}{S} Rd,Rn,#imm32 (R191). -/
  | eorImm (c : Cond) (sf : Bool) (rn rd : Reg) (o : Op2Imm)
  /-- EOR{cond}{S} Rd,Rn,Rm,SSS#Is (R191). -/
  | eorShImm (c : Cond) (sf : Bool) (rn rd : Reg) (o : Op2ShImm)
  /-- EOR{cond}{S} Rd,Rn,Rm,SSS Rs (R191). -/
  | eorShReg (c : Cond) (sf : Bool) (rn rd : Reg) (o : Op2ShReg)
  /-- SUB{cond}{S} Rd,Rn,#imm32 (R192). -/
  | subImm (c : Cond) (sf : Bool) (rn rd : Reg) (o : Op2Imm)
  /-- SUB{cond}{S} Rd,Rn,Rm,SSS#Is (R192). -/
  | subShImm (c : Cond) (sf : Bool) (rn rd : Reg) (o : Op2ShImm)
  /-- SUB{cond}{S} Rd,Rn,Rm,SSS Rs (R192). -/
  | subShReg (c : Cond) (sf : Bool) (rn rd : Reg) (o : Op2ShReg)
  /-- RSB{cond}{S} Rd,Rn,#imm32 (R193). -/
  | rsbImm (c : Cond) (sf : Bool) (rn rd : Reg) (o : Op2Imm)
  /-- RSB{cond}{S} Rd,Rn,Rm,SSS#Is (R193). -/
  | rsbShImm (c : Cond) (sf : Bool) (rn rd : Reg) (o : Op2ShImm)
  /-- RSB{cond}{S} Rd,Rn,Rm,SSS Rs (R193). -/
  | rsbShReg (c : Cond) (sf : Bool) (rn rd : Reg) (o : Op2ShReg)
  /-- ADD{cond}{S} Rd,Rn,#imm32 (R194). -/
  | addImm (c : Cond) (sf : Bool) (rn rd : Reg) (o : Op2Imm)
  /-- ADD{cond}{S} Rd,Rn,Rm,SSS#Is (R194). -/
  | addShImm (c : Cond) (sf : Bool) (rn rd : Reg) (o : Op2ShImm)
  /-- ADD{cond}{S} Rd,Rn,Rm,SSS Rs (R194). -/
  | addShReg (c : Cond) (sf : Bool) (rn rd : Reg) (o : Op2ShReg)
  /-- ADC{cond}{S} Rd,Rn,#imm32 (R195). -/
  | adcImm (c : Cond) (sf : Bool) (rn rd : Reg) (o : Op2Imm)
  /-- ADC{cond}{S} Rd,Rn,Rm,SSS#Is (R195). -/
  | adcShImm (c : Cond) (sf : Bool) (rn rd : Reg) (o : Op2ShImm)
  /-- ADC{cond}{S} Rd,Rn,Rm,SSS Rs (R195). -/
  | adcShReg (c : Cond) (sf : Bool) (rn rd : Reg) (o : Op2ShReg)
  /-- SBC{cond}{S} Rd,Rn,#imm32 (R196). -/
  | sbcImm (c : Cond) (sf : Bool) (rn rd : Reg) (o : Op2Imm)
  /-- SBC{cond}{S} Rd,Rn,Rm,SSS#Is (R196). -/
  | sbcShImm (c : Cond) (sf : Bool) (rn rd : Reg) (o : Op2ShImm)
  /-- SBC{cond}{S} Rd,Rn,Rm,SSS Rs (R196). -/
  | sbcShReg (c : Cond) (sf : Bool) (rn rd : Reg) (o : Op2ShReg)
  /-- RSC{cond}{S} Rd,Rn,#imm32 (R197). -/
  | rscImm (c : Cond) (sf : Bool) (rn rd : Reg) (o : Op2Imm)
  /-- RSC{cond}{S} Rd,Rn,Rm,SSS#Is (R197). -/
  | rscShImm (c : Cond) (sf : Bool) (rn rd : Reg) (o : Op2ShImm)
  /-- RSC{cond}{S} Rd,Rn,Rm,SSS Rs (R197). -/
  | rscShReg (c : Cond) (sf : Bool) (rn rd : Reg) (o : Op2ShReg)
  /-- TST{cond} Rn,#imm32 (R198). -/
  | tstImm (c : Cond) (rn : Reg) (o : Op2Imm)
  /-- TST{cond} Rn,Rm,SSS#Is (R198). -/
  | tstShImm (c : Cond) (rn : Reg) (o : Op2ShImm)
  /-- TST{cond} Rn,Rm,SSS Rs (R198). -/
  | tstShReg (c : Cond) (rn : Reg) (o : Op2ShReg)
  /-- TEQ{cond} Rn,#imm32 (R199). -/
  | teqImm (c : Cond) (rn : Reg) (o : Op2Imm)
  /-- TEQ{cond} Rn,Rm,SSS#Is (R199). -/
  | teqShImm (c : Cond) (rn : Reg) (o : Op2ShImm)
  /-- TEQ{cond} Rn,Rm,SSS Rs (R199). -/
  | teqShReg (c : Cond) (rn : Reg) (o : Op2ShReg)
  /-- CMP{cond} Rn,#imm32 (R200). -/
  | cmpImm (c : Cond) (rn : Reg) (o : Op2Imm)
  /-- CMP{cond} Rn,Rm,SSS#Is (R200). -/
  | cmpShImm (c : Cond) (rn : Reg) (o : Op2ShImm)
  /-- CMP{cond} Rn,Rm,SSS Rs (R200). -/
  | cmpShReg (c : Cond) (rn : Reg) (o : Op2ShReg)
  /-- CMN{cond} Rn,#imm32 (R201). -/
  | cmnImm (c : Cond) (rn : Reg) (o : Op2Imm)
  /-- CMN{cond} Rn,Rm,SSS#Is (R201). -/
  | cmnShImm (c : Cond) (rn : Reg) (o : Op2ShImm)
  /-- CMN{cond} Rn,Rm,SSS Rs (R201). -/
  | cmnShReg (c : Cond) (rn : Reg) (o : Op2ShReg)
  /-- ORR{cond}{S} Rd,Rn,#imm32 (R202). -/
  | orrImm (c : Cond) (sf : Bool) (rn rd : Reg) (o : Op2Imm)
  /-- ORR{cond}{S} Rd,Rn,Rm,SSS#Is (R202). -/
  | orrShImm (c : Cond) (sf : Bool) (rn rd : Reg) (o : Op2ShImm)
  /-- ORR{cond}{S} Rd,Rn,Rm,SSS Rs (R202). -/
  | orrShReg (c : Cond) (sf : Bool) (rn rd : Reg) (o : Op2ShReg)
  /-- MOV{cond}{S} Rd,#imm32 (R203). -/
  | movImm (c : Cond) (sf : Bool) (rd : Reg) (o : Op2Imm)
  /-- MOV{cond}{S} Rd,Rm,SSS#Is (R203). -/
  | movShImm (c : Cond) (sf : Bool) (rd : Reg) (o : Op2ShImm)
  /-- MOV{cond}{S} Rd,Rm,SSS Rs (R203). -/
  | movShReg (c : Cond) (sf : Bool) (rd : Reg) (o : Op2ShReg)
  /-- BIC{cond}{S} Rd,Rn,#imm32 (R204). -/
  | bicImm (c : Cond) (sf : Bool) (rn rd : Reg) (o : Op2Imm)
  /-- BIC{cond}{S} Rd,Rn,Rm,SSS#Is (R204). -/
  | bicShImm (c : Cond) (sf : Bool) (rn rd : Reg) (o : Op2ShImm)
  /-- BIC{cond}{S} Rd,Rn,Rm,SSS Rs (R204). -/
  | bicShReg (c : Cond) (sf : Bool) (rn rd : Reg) (o : Op2ShReg)
  /-- MVN{cond}{S} Rd,#imm32 (R205). -/
  | mvnImm (c : Cond) (sf : Bool) (rd : Reg) (o : Op2Imm)
  /-- MVN{cond}{S} Rd,Rm,SSS#Is (R205). -/
  | mvnShImm (c : Cond) (sf : Bool) (rd : Reg) (o : Op2ShImm)
  /-- MVN{cond}{S} Rd,Rm,SSS Rs (R205). -/
  | mvnShReg (c : Cond) (sf : Bool) (rd : Reg) (o : Op2ShReg)
  /-- MUL{cond}{S} Rd,Rm,Rs (R222). -/
  | mul (c : Cond) (sf : Bool) (rd rs rm : Reg)
  /-- MLA{cond}{S} Rd,Rm,Rs,Rn (R223). -/
  | mla (c : Cond) (sf : Bool) (rd rn rs rm : Reg)
  /-- UMULL{cond}{S} RdLo,RdHi,Rm,Rs (R229). -/
  | umull (c : Cond) (sf : Bool) (rdHi rdLo rs rm : Reg)
  /-- UMLAL{cond}{S} RdLo,RdHi,Rm,Rs (R230). -/
  | umlal (c : Cond) (sf : Bool) (rdHi rdLo rs rm : Reg)
  /-- SMULL{cond}{S} RdLo,RdHi,Rm,Rs (R231). -/
  | smull (c : Cond) (sf : Bool) (rdHi rdLo rs rm : Reg)
  /-- SMLAL{cond}{S} RdLo,RdHi,Rm,Rs (R232). -/
  | smlal (c : Cond) (sf : Bool) (rdHi rdLo rs rm : Reg)
  /-- MRS{cond} Rd,Psr (R240). -/
  | mrs (c : Cond) (spsr : Bool) (rd : Reg)
  /-- MSR{cond} Psr{_field},Rm (R241). -/
  | msrReg (c : Cond) (spsr : Bool) (fields : FieldMask) (rm : Reg)
  /-- MSR{cond} Psr{_field},#imm (R242). -/
  | msrImm (c : Cond) (spsr : Bool) (fields : FieldMask) (o : Op2Imm)
  /-- LDR{cond} Rd,[Rn,#±n]{!} (R270). -/
  | ldrImmPre (c : Cond) (up wb : Bool) (rn rd : Reg) (off : BitVec 12)
  /-- LDR{cond} Rd,[Rn],#±n (R270). -/
  | ldrImmPost (c : Cond) (up : Bool) (rn rd : Reg) (off : BitVec 12)
  /-- LDR{cond} Rd,[Rn,±Rm,shift]{!} (R270). -/
  | ldrRegPre (c : Cond) (up wb : Bool) (rn rd : Reg) (o : Op2ShImm)
  /-- LDR{cond} Rd,[Rn],±Rm,shift (R270). -/
  | ldrRegPost (c : Cond) (up : Bool) (rn rd : Reg) (o : Op2ShImm)
  /-- LDRB{cond} Rd,[Rn,#±n]{!} (R271). -/
  | ldrbImmPre (c : Cond) (up wb : Bool) (rn rd : Reg) (off : BitVec 12)
  /-- LDRB{cond} Rd,[Rn],#±n (R271). -/
  | ldrbImmPost (c : Cond) (up : Bool) (rn rd : Reg) (off : BitVec 12)
  /-- LDRB{cond} Rd,[Rn,±Rm,shift]{!} (R271). -/
  | ldrbRegPre (c : Cond) (up wb : Bool) (rn rd : Reg) (o : Op2ShImm)
  /-- LDRB{cond} Rd,[Rn],±Rm,shift (R271). -/
  | ldrbRegPost (c : Cond) (up : Bool) (rn rd : Reg) (o : Op2ShImm)
  /-- STR{cond} Rd,[Rn,#±n]{!} (R272). -/
  | strImmPre (c : Cond) (up wb : Bool) (rn rd : Reg) (off : BitVec 12)
  /-- STR{cond} Rd,[Rn],#±n (R272). -/
  | strImmPost (c : Cond) (up : Bool) (rn rd : Reg) (off : BitVec 12)
  /-- STR{cond} Rd,[Rn,±Rm,shift]{!} (R272). -/
  | strRegPre (c : Cond) (up wb : Bool) (rn rd : Reg) (o : Op2ShImm)
  /-- STR{cond} Rd,[Rn],±Rm,shift (R272). -/
  | strRegPost (c : Cond) (up : Bool) (rn rd : Reg) (o : Op2ShImm)
  /-- STRB{cond} Rd,[Rn,#±n]{!} (R273). -/
  | strbImmPre (c : Cond) (up wb : Bool) (rn rd : Reg) (off : BitVec 12)
  /-- STRB{cond} Rd,[Rn],#±n (R273). -/
  | strbImmPost (c : Cond) (up : Bool) (rn rd : Reg) (off : BitVec 12)
  /-- STRB{cond} Rd,[Rn,±Rm,shift]{!} (R273). -/
  | strbRegPre (c : Cond) (up wb : Bool) (rn rd : Reg) (o : Op2ShImm)
  /-- STRB{cond} Rd,[Rn],±Rm,shift (R273). -/
  | strbRegPost (c : Cond) (up : Bool) (rn rd : Reg) (o : Op2ShImm)
  /-- LDRT{cond} Rd,[Rn],#±n (R274). -/
  | ldrtImm (c : Cond) (up : Bool) (rn rd : Reg) (off : BitVec 12)
  /-- LDRT{cond} Rd,[Rn],±Rm,shift (R274). -/
  | ldrtReg (c : Cond) (up : Bool) (rn rd : Reg) (o : Op2ShImm)
  /-- LDRBT{cond} Rd,[Rn],#±n (R275). -/
  | ldrbtImm (c : Cond) (up : Bool) (rn rd : Reg) (off : BitVec 12)
  /-- LDRBT{cond} Rd,[Rn],±Rm,shift (R275). -/
  | ldrbtReg (c : Cond) (up : Bool) (rn rd : Reg) (o : Op2ShImm)
  /-- STRT{cond} Rd,[Rn],#±n (R276). -/
  | strtImm (c : Cond) (up : Bool) (rn rd : Reg) (off : BitVec 12)
  /-- STRT{cond} Rd,[Rn],±Rm,shift (R276). -/
  | strtReg (c : Cond) (up : Bool) (rn rd : Reg) (o : Op2ShImm)
  /-- STRBT{cond} Rd,[Rn],#±n (R277). -/
  | strbtImm (c : Cond) (up : Bool) (rn rd : Reg) (off : BitVec 12)
  /-- STRBT{cond} Rd,[Rn],±Rm,shift (R277). -/
  | strbtReg (c : Cond) (up : Bool) (rn rd : Reg) (o : Op2ShImm)
  /-- STRH{cond} with a register offset (R295). -/
  | strhReg (c : Cond) (ix : HalfIndex) (up : Bool) (rn rd rm : Reg)
  /-- STRH{cond} with an immediate offset (R295). -/
  | strhImm (c : Cond) (ix : HalfIndex) (up : Bool) (rn rd : Reg) (off : BitVec 8)
  /-- LDRH{cond} with a register offset (R296). -/
  | ldrhReg (c : Cond) (ix : HalfIndex) (up : Bool) (rn rd rm : Reg)
  /-- LDRH{cond} with an immediate offset (R296). -/
  | ldrhImm (c : Cond) (ix : HalfIndex) (up : Bool) (rn rd : Reg) (off : BitVec 8)
  /-- LDRSB{cond} with a register offset (R297). -/
  | ldrsbReg (c : Cond) (ix : HalfIndex) (up : Bool) (rn rd rm : Reg)
  /-- LDRSB{cond} with an immediate offset (R297). -/
  | ldrsbImm (c : Cond) (ix : HalfIndex) (up : Bool) (rn rd : Reg) (off : BitVec 8)
  /-- LDRSH{cond} with a register offset (R298). -/
  | ldrshReg (c : Cond) (ix : HalfIndex) (up : Bool) (rn rd rm : Reg)
  /-- LDRSH{cond} with an immediate offset (R298). -/
  | ldrshImm (c : Cond) (ix : HalfIndex) (up : Bool) (rn rd : Reg) (off : BitVec 8)
  /-- STM{cond}{amod} Rn{!},<Rlist> (R314). -/
  | stm (c : Cond) (pre up wb : Bool) (rn : Reg) (list : BitVec 16)
  /-- LDM{cond}{amod} Rn{!},<Rlist> (R315). -/
  | ldm (c : Cond) (pre up wb : Bool) (rn : Reg) (list : BitVec 16)
  /-- LDM^ with R15 in the list; `list` holds R14..R0 (R317). -/
  | ldmPcS (c : Cond) (pre up wb : Bool) (rn : Reg) (list : BitVec 15)
  /-- STM^, user bank transfer (R318). -/
  | stmS (c : Cond) (pre up wb : Bool) (rn : Reg) (list : BitVec 16)
  /-- LDM^ without R15, user bank transfer; `list` holds R14..R0 (R318). -/
  | ldmUserS (c : Cond) (pre up wb : Bool) (rn : Reg) (list : BitVec 15)
  /-- SWP{cond} Rd,Rm,[Rn] (R341). -/
  | swp (c : Cond) (rn rd rm : Reg)
  /-- SWP{cond}B Rd,Rm,[Rn] (R342). -/
  | swpb (c : Cond) (rn rd rm : Reg)
  /-- MRC{cond} Pn,cpopc,Rd,Cn,Cm,cp (R352). -/
  | mrc (c : Cond) (p : BitVec 4) (op : CoprocRegOp) (rd : Reg)
  /-- MCR{cond} Pn,cpopc,Rd,Cn,Cm,cp (R353). -/
  | mcr (c : Cond) (p : BitVec 4) (op : CoprocRegOp) (rd : Reg)
  /-- CDP{cond} Pn,cpopc,Cd,Cn,Cm,cp (R354). -/
  | cdp (c : Cond) (p cpopc cd cn cm : BitVec 4) (cp : BitVec 3)
  /-- LDC{cond}{L} Pn,Cd,<Address> (R355). -/
  | ldc (c : Cond) (pre up long wb : Bool) (rn : Reg) (cd p : BitVec 4) (off : BitVec 8)
  /-- STC{cond}{L} Pn,Cd,<Address> (R356). -/
  | stc (c : Cond) (pre up long wb : Bool) (rn : Reg) (cd p : BitVec 4) (off : BitVec 8)
  /-- LSL Rd,Rs,#Offset (R376). -/
  | tLslImm (k : BitVec 5) (rs rd : LoReg)
  /-- LSR Rd,Rs,#Offset (R377). -/
  | tLsrImm (k : BitVec 5) (rs rd : LoReg)
  /-- ASR Rd,Rs,#Offset (R378). -/
  | tAsrImm (k : BitVec 5) (rs rd : LoReg)
  /-- ADD Rd,Rs,Rn (R381). -/
  | tAddReg (rn rs rd : LoReg)
  /-- SUB Rd,Rs,Rn (R382). -/
  | tSubReg (rn rs rd : LoReg)
  /-- ADD Rd,Rs,#nn (R383). -/
  | tAddImm3 (nn : BitVec 3) (rs rd : LoReg)
  /-- SUB Rd,Rs,#nn (R384). -/
  | tSubImm3 (nn : BitVec 3) (rs rd : LoReg)
  /-- MOV Rd,#nn (R387). -/
  | tMovImm8 (rd : LoReg) (nn : BitVec 8)
  /-- CMP Rd,#nn (R388). -/
  | tCmpImm8 (rd : LoReg) (nn : BitVec 8)
  /-- ADD Rd,#nn (R389). -/
  | tAddImm8 (rd : LoReg) (nn : BitVec 8)
  /-- SUB Rd,#nn (R390). -/
  | tSubImm8 (rd : LoReg) (nn : BitVec 8)
  /-- AND Rd,Rs (R397). -/
  | tAnd (rs rd : LoReg)
  /-- EOR Rd,Rs (R398). -/
  | tEor (rs rd : LoReg)
  /-- LSL Rd,Rs (R399). -/
  | tLslReg (rs rd : LoReg)
  /-- LSR Rd,Rs (R400). -/
  | tLsrReg (rs rd : LoReg)
  /-- ASR Rd,Rs (R401). -/
  | tAsrReg (rs rd : LoReg)
  /-- ADC Rd,Rs (R402). -/
  | tAdc (rs rd : LoReg)
  /-- SBC Rd,Rs (R403). -/
  | tSbc (rs rd : LoReg)
  /-- ROR Rd,Rs (R404). -/
  | tRor (rs rd : LoReg)
  /-- TST Rd,Rs (R405). -/
  | tTst (rs rd : LoReg)
  /-- NEG Rd,Rs (R406). -/
  | tNeg (rs rd : LoReg)
  /-- CMP Rd,Rs (R407). -/
  | tCmpReg (rs rd : LoReg)
  /-- CMN Rd,Rs (R408). -/
  | tCmn (rs rd : LoReg)
  /-- ORR Rd,Rs (R409). -/
  | tOrr (rs rd : LoReg)
  /-- MUL Rd,Rs (R410). -/
  | tMul (rs rd : LoReg)
  /-- BIC Rd,Rs (R411). -/
  | tBic (rs rd : LoReg)
  /-- MVN Rd,Rs (R412). -/
  | tMvn (rs rd : LoReg)
  /-- ADD Rd,Rs with MSBd=1: the destination is R8+rd (R421). -/
  | tAddHiDst (rs : Reg) (rd : LoReg)
  /-- ADD Rd,Rs with MSBd=0, MSBs=1: the source is R8+rs (R421). -/
  | tAddHiSrc (rs rd : LoReg)
  /-- CMP Rd,Rs with MSBd=1: the destination is R8+rd (R422). -/
  | tCmpHiDst (rs : Reg) (rd : LoReg)
  /-- CMP Rd,Rs with MSBd=0, MSBs=1: the source is R8+rs (R422). -/
  | tCmpHiSrc (rs rd : LoReg)
  /-- MOV Rd,Rs with MSBd=1: the destination is R8+rd (R423). -/
  | tMovHiDst (rs : Reg) (rd : LoReg)
  /-- MOV Rd,Rs with MSBd=0, MSBs=1: the source is R8+rs (R423). -/
  | tMovHiSrc (rs rd : LoReg)
  /-- BX Rs (R428). -/
  | tBx (rs : Reg)
  /-- LDR Rd,[PC,#nn] (R452). -/
  | tLdrPc (rd : LoReg) (nn : BitVec 8)
  /-- STR Rd,[Rb,Ro] (R456). -/
  | tStrReg (ro rb rd : LoReg)
  /-- STRB Rd,[Rb,Ro] (R457). -/
  | tStrbReg (ro rb rd : LoReg)
  /-- LDR Rd,[Rb,Ro] (R458). -/
  | tLdrReg (ro rb rd : LoReg)
  /-- LDRB Rd,[Rb,Ro] (R459). -/
  | tLdrbReg (ro rb rd : LoReg)
  /-- STRH Rd,[Rb,Ro] (R463). -/
  | tStrhReg (ro rb rd : LoReg)
  /-- LDSB Rd,[Rb,Ro] (R464). -/
  | tLdsbReg (ro rb rd : LoReg)
  /-- LDRH Rd,[Rb,Ro] (R465). -/
  | tLdrhReg (ro rb rd : LoReg)
  /-- LDSH Rd,[Rb,Ro] (R466). -/
  | tLdshReg (ro rb rd : LoReg)
  /-- STR Rd,[Rb,#nn] (R471). -/
  | tStrImm (nn : BitVec 5) (rb rd : LoReg)
  /-- LDR Rd,[Rb,#nn] (R472). -/
  | tLdrImm (nn : BitVec 5) (rb rd : LoReg)
  /-- STRB Rd,[Rb,#nn] (R473). -/
  | tStrbImm (nn : BitVec 5) (rb rd : LoReg)
  /-- LDRB Rd,[Rb,#nn] (R474). -/
  | tLdrbImm (nn : BitVec 5) (rb rd : LoReg)
  /-- STRH Rd,[Rb,#nn] (R477). -/
  | tStrhImm (nn : BitVec 5) (rb rd : LoReg)
  /-- LDRH Rd,[Rb,#nn] (R478). -/
  | tLdrhImm (nn : BitVec 5) (rb rd : LoReg)
  /-- STR Rd,[SP,#nn] (R481). -/
  | tStrSp (rd : LoReg) (nn : BitVec 8)
  /-- LDR Rd,[SP,#nn] (R482). -/
  | tLdrSp (rd : LoReg) (nn : BitVec 8)
  /-- ADD Rd,PC,#nn (R485). -/
  | tAddPc (rd : LoReg) (nn : BitVec 8)
  /-- ADD Rd,SP,#nn (R486). -/
  | tAddSp (rd : LoReg) (nn : BitVec 8)
  /-- ADD SP,#nn (R489). -/
  | tSpAdd (nn : BitVec 7)
  /-- ADD SP,#-nn (R490). -/
  | tSpSub (nn : BitVec 7)
  /-- PUSH {Rlist}{LR} (R494). -/
  | tPush (lr : Bool) (list : BitVec 8)
  /-- POP {Rlist}{PC} (R495). -/
  | tPop (pc : Bool) (list : BitVec 8)
  /-- STMIA Rb!,{Rlist} (R501). -/
  | tStmia (rb : LoReg) (list : BitVec 8)
  /-- LDMIA Rb!,{Rlist} (R502). -/
  | tLdmia (rb : LoReg) (list : BitVec 8)
  /-- BEQ label (R510). -/
  | tBeq (off : BitVec 8)
  /-- BNE label (R510). -/
  | tBne (off : BitVec 8)
  /-- BCS label (R510). -/
  | tBcs (off : BitVec 8)
  /-- BCC label (R510). -/
  | tBcc (off : BitVec 8)
  /-- BMI label (R510). -/
  | tBmi (off : BitVec 8)
  /-- BPL label (R510). -/
  | tBpl (off : BitVec 8)
  /-- BVS label (R510). -/
  | tBvs (off : BitVec 8)
  /-- BVC label (R510). -/
  | tBvc (off : BitVec 8)
  /-- BHI label (R510). -/
  | tBhi (off : BitVec 8)
  /-- BLS label (R510). -/
  | tBls (off : BitVec 8)
  /-- BGE label (R510). -/
  | tBge (off : BitVec 8)
  /-- BLT label (R510). -/
  | tBlt (off : BitVec 8)
  /-- BGT label (R510). -/
  | tBgt (off : BitVec 8)
  /-- BLE label (R510). -/
  | tBle (off : BitVec 8)
  /-- SWI nn (R515). -/
  | tSwi (comment : BitVec 8)
  /-- B label (R518). -/
  | tB (off : BitVec 11)
  /-- BL label, first halfword (R520). -/
  | tBlFirst (nn : BitVec 11)
  /-- BL label, second halfword (R521). -/
  | tBlSecond (nn : BitVec 11)
  deriving DecidableEq, Repr

end Sys2Proof
end

