-- ==== Sys2Proof/WellFormed.lean ====
section
/-! DEFINITION. Which instructions the spec gives a meaning to: the operand restrictions that an encoding can express
and the spec refuses (spec/93_implementation_defined.md U1, U3 to U7, U10 to U14, U30). The machine refuses each of
them under a name of its own; `Instr.wellFormed` collects them. -/

namespace Sys2Proof

/-- Not R15. -/
def Reg.notPc (r : Reg) : Bool := r != 15#4

/-- Shift by register: Rs is R0..R14 (R173, U1). -/
def Op2ShReg.wf (o : Op2ShReg) : Bool := Reg.notPc o.rs

/-- Register offset: Rm is R0..R14 (R260, U10). -/
def Op2ShImm.offsetWf (o : Op2ShImm) : Bool := Reg.notPc o.rm

/-- Write-back: neither Rn = Rd nor Rn = R15 (R262, R292, U30). -/
def writeBackWf (wb : Bool) (rn rd : Reg) : Bool := !wb || (rn != rd && Reg.notPc rn)

/-- Whether a halfword transfer writes its base back (R291). -/
def HalfIndex.writesBack : HalfIndex → Bool
  | .pre wb => wb
  | .post => true

/-- MUL, MLA: Rd is not Rm and no R15 (R220, U4, U5). -/
def multiplyWf (rd rm : Reg) (others : List Reg) : Bool :=
  rd != rm && Reg.notPc rd && Reg.notPc rm && others.all Reg.notPc

/-- Long multiplies: RdHi, RdLo, Rm are three registers and no R15 (R227, U5, U6). -/
def longMultiplyWf (rdHi rdLo rs rm : Reg) : Bool :=
  rdHi != rdLo && rdHi != rm && rdLo != rm && Reg.notPc rdHi && Reg.notPc rdLo && Reg.notPc rs && Reg.notPc rm

/-- LDM, STM: the base is not R15 and the list is not empty (R313, R320, U11, U13). -/
def blockWf {n : Nat} (rn : Reg) (list : BitVec n) : Bool := Reg.notPc rn && list != 0

/-- The operand restrictions, constructor by constructor. -/
def Instr.wellFormed : Instr → Bool
  | .bx _ rn => Reg.notPc rn
  | .andShReg _ _ _ _ o | .eorShReg _ _ _ _ o | .subShReg _ _ _ _ o | .rsbShReg _ _ _ _ o
  | .addShReg _ _ _ _ o | .adcShReg _ _ _ _ o | .sbcShReg _ _ _ _ o | .rscShReg _ _ _ _ o
  | .orrShReg _ _ _ _ o | .bicShReg _ _ _ _ o => o.wf
  | .tstShReg _ _ o | .teqShReg _ _ o | .cmpShReg _ _ o | .cmnShReg _ _ o => o.wf
  | .movShReg _ _ _ o | .mvnShReg _ _ _ o => o.wf
  | .mul _ _ rd rs rm => multiplyWf rd rm [rs]
  | .mla _ _ rd rn rs rm => multiplyWf rd rm [rn, rs]
  | .umull _ _ hi lo rs rm | .umlal _ _ hi lo rs rm | .smull _ _ hi lo rs rm | .smlal _ _ hi lo rs rm =>
    longMultiplyWf hi lo rs rm
  | .mrs _ _ rd => Reg.notPc rd
  | .msrReg _ _ _ rm => Reg.notPc rm
  | .ldrImmPre _ _ wb rn rd _ | .ldrbImmPre _ _ wb rn rd _ | .strImmPre _ _ wb rn rd _
  | .strbImmPre _ _ wb rn rd _ => writeBackWf wb rn rd
  | .ldrImmPost _ _ rn rd _ | .ldrbImmPost _ _ rn rd _ | .strImmPost _ _ rn rd _ | .strbImmPost _ _ rn rd _
  | .ldrtImm _ _ rn rd _ | .ldrbtImm _ _ rn rd _ | .strtImm _ _ rn rd _ | .strbtImm _ _ rn rd _ =>
    writeBackWf true rn rd
  | .ldrRegPre _ _ wb rn rd o | .ldrbRegPre _ _ wb rn rd o | .strRegPre _ _ wb rn rd o
  | .strbRegPre _ _ wb rn rd o => o.offsetWf && writeBackWf wb rn rd
  | .ldrRegPost _ _ rn rd o | .ldrbRegPost _ _ rn rd o | .strRegPost _ _ rn rd o | .strbRegPost _ _ rn rd o
  | .ldrtReg _ _ rn rd o | .ldrbtReg _ _ rn rd o | .strtReg _ _ rn rd o | .strbtReg _ _ rn rd o =>
    o.offsetWf && writeBackWf true rn rd
  | .strhReg _ ix _ rn rd rm | .ldrhReg _ ix _ rn rd rm | .ldrsbReg _ ix _ rn rd rm
  | .ldrshReg _ ix _ rn rd rm => Reg.notPc rm && writeBackWf ix.writesBack rn rd
  | .strhImm _ ix _ rn rd _ | .ldrhImm _ ix _ rn rd _ | .ldrsbImm _ ix _ rn rd _
  | .ldrshImm _ ix _ rn rd _ => writeBackWf ix.writesBack rn rd
  | .stm _ _ _ _ rn list | .ldm _ _ _ _ rn list => blockWf rn list
  | .ldmPcS _ _ _ _ rn _ => Reg.notPc rn
  | .stmS _ _ _ wb rn list => blockWf rn list && !wb
  | .ldmUserS _ _ _ wb rn list => blockWf rn list && !wb
  | .swp _ rn rd rm | .swpb _ rn rd rm => Reg.notPc rn && Reg.notPc rd && Reg.notPc rm
  | .ldc _ _ _ _ wb rn _ _ _ | .stc _ _ _ _ wb rn _ _ _ => !wb || Reg.notPc rn
  | .tPush lr list => lr || list != 0
  | .tPop pc list => pc || list != 0
  | .tStmia _ list | .tLdmia _ list => list != 0
  | .b .. | .bl .. | .swi .. | .undefined ..
  | .andImm .. | .andShImm .. | .eorImm .. | .eorShImm .. | .subImm .. | .subShImm .. | .rsbImm .. | .rsbShImm ..
  | .addImm .. | .addShImm .. | .adcImm .. | .adcShImm .. | .sbcImm .. | .sbcShImm .. | .rscImm .. | .rscShImm ..
  | .tstImm .. | .tstShImm .. | .teqImm .. | .teqShImm .. | .cmpImm .. | .cmpShImm .. | .cmnImm .. | .cmnShImm ..
  | .orrImm .. | .orrShImm .. | .movImm .. | .movShImm .. | .bicImm .. | .bicShImm .. | .mvnImm .. | .mvnShImm ..
  | .msrImm .. | .mrc .. | .mcr .. | .cdp ..
  | .tLslImm .. | .tLsrImm .. | .tAsrImm .. | .tAddReg .. | .tSubReg .. | .tAddImm3 .. | .tSubImm3 ..
  | .tMovImm8 .. | .tCmpImm8 .. | .tAddImm8 .. | .tSubImm8 ..
  | .tAnd .. | .tEor .. | .tLslReg .. | .tLsrReg .. | .tAsrReg .. | .tAdc .. | .tSbc .. | .tRor .. | .tTst ..
  | .tNeg .. | .tCmpReg .. | .tCmn .. | .tOrr .. | .tMul .. | .tBic .. | .tMvn ..
  | .tAddHiDst .. | .tAddHiSrc .. | .tCmpHiDst .. | .tCmpHiSrc .. | .tMovHiDst .. | .tMovHiSrc .. | .tBx ..
  | .tLdrPc .. | .tStrReg .. | .tStrbReg .. | .tLdrReg .. | .tLdrbReg .. | .tStrhReg .. | .tLdsbReg ..
  | .tLdrhReg .. | .tLdshReg .. | .tStrImm .. | .tLdrImm .. | .tStrbImm .. | .tLdrbImm .. | .tStrhImm ..
  | .tLdrhImm .. | .tStrSp .. | .tLdrSp .. | .tAddPc .. | .tAddSp .. | .tSpAdd .. | .tSpSub ..
  | .tBeq .. | .tBne .. | .tBcs .. | .tBcc .. | .tBmi .. | .tBpl .. | .tBvs .. | .tBvc .. | .tBhi .. | .tBls ..
  | .tBge .. | .tBlt .. | .tBgt .. | .tBle .. | .tSwi .. | .tB .. | .tBlFirst .. | .tBlSecond .. => true

end Sys2Proof
end

