-- ==== Sys2Proof/Decode.lean ====
section
/-! DEFINITION. The decoder, total on any bytes and rejecting by name, from the decode orders of spec/30_encoding.md
R102 and R121; after it the encoder, from the same encoding tables. -/

namespace Sys2Proof

/-- Why a word or halfword is no instruction of this hardware. -/
inductive Reject where
  /-- Condition field 1111b (spec/10_state.md R46). -/
  | cond1111
  /-- An ARM word that matches no instruction (spec/30_encoding.md R130). -/
  | unallocated
  /-- An ARM word of ARMv5 or ARMv5TE (spec/30_encoding.md R131). -/
  | armv5
  /-- A must-be field holding another value (spec/30_encoding.md R132, spec/48_thumb_register_ops.md R428). -/
  | mustBe
  /-- TSTP, TEQP, CMPP, CMNP: a compare with Rd = 1111b (spec/41_arm_alu.md R186). -/
  | comparePForm
  /-- A reserved, undefined or foreign THUMB halfword (spec/30_encoding.md R135). -/
  | thumbReserved
  /-- Fewer bytes than an instruction has: raised by no fetch. -/
  | truncated
  deriving DecidableEq, Repr

/-- What a decoder answers. -/
abbrev Decoded := Except Reject Instr

/-! ## Fields -/

/-- The condition of a code (spec/10_state.md R45); none for 1111b (R46). -/
def Cond.ofCode (c : BitVec 4) : Option Cond :=
  match c.toNat with
  | 0 => some .eq | 1 => some .ne | 2 => some .cs | 3 => some .cc
  | 4 => some .mi | 5 => some .pl | 6 => some .vs | 7 => some .vc
  | 8 => some .hi | 9 => some .ls | 10 => some .ge | 11 => some .lt
  | 12 => some .gt | 13 => some .le | 14 => some .al
  | _ => none

/-- The code of a condition (spec/10_state.md R45). -/
def Cond.code : Cond → BitVec 4
  | .eq => 0x0#4 | .ne => 0x1#4 | .cs => 0x2#4 | .cc => 0x3#4
  | .mi => 0x4#4 | .pl => 0x5#4 | .vs => 0x6#4 | .vc => 0x7#4
  | .hi => 0x8#4 | .ls => 0x9#4 | .ge => 0xA#4 | .lt => 0xB#4
  | .gt => 0xC#4 | .le => 0xD#4 | .al => 0xE#4

/-- The shift type of a code (spec/30_encoding.md R103). -/
def ShiftType.ofCode (t : BitVec 2) : ShiftType :=
  match t.toNat with
  | 0 => .lsl | 1 => .lsr | 2 => .asr | _ => .ror

/-- The code of a shift type (spec/30_encoding.md R103). -/
def ShiftType.code : ShiftType → BitVec 2
  | .lsl => 0b00#2 | .lsr => 0b01#2 | .asr => 0b10#2 | .ror => 0b11#2

/-- Bits 11-0 as a rotated immediate (R103, R104). -/
def Op2Imm.ofWord (w : Word) : Op2Imm := ⟨w.extractLsb' 8 4, w.extractLsb' 0 8⟩

/-- Bits 11-0 as a register shifted by an immediate (R103). -/
def Op2ShImm.ofWord (w : Word) : Op2ShImm :=
  ⟨w.extractLsb' 0 4, ShiftType.ofCode (w.extractLsb' 5 2), w.extractLsb' 7 5⟩

/-- Bits 11-0 as a register shifted by a register (R103). -/
def Op2ShReg.ofWord (w : Word) : Op2ShReg :=
  ⟨w.extractLsb' 0 4, ShiftType.ofCode (w.extractLsb' 5 2), w.extractLsb' 8 4⟩

/-- Bits 19-16 as the field mask of MSR (R105). -/
def FieldMask.ofWord (w : Word) : FieldMask := ⟨w.getLsbD 19, w.getLsbD 18, w.getLsbD 17, w.getLsbD 16⟩

/-- The indexing of a halfword transfer from its P and W bits; P=0 with W=1 violates a must-be field (R109, R132). -/
def HalfIndex.ofBits : Bool → Bool → Option HalfIndex
  | true, w => some (.pre w)
  | false, false => some .post
  | false, true => none

/-- MOV and MVN: Rn must be 0000b (R103, R132). -/
def decodeMove (rn : Reg) (i : Instr) : Decoded := if rn = 0#4 then .ok i else .error .mustBe

/-- TST, TEQ, CMP, CMN: Rd must be 0000b; 1111b is the P form of other hardware (R103, R186). -/
def decodeCompare (rd : Reg) (i : Instr) : Decoded :=
  if rd = 0#4 then .ok i else if rd = 15#4 then .error .comparePForm else .error .mustBe

/-! ## ARM (R102) -/

/-- Data processing, immediate Op2: the sixteen opcodes (R103). -/
def decodeAluImm (c : Cond) (op : BitVec 4) (sf : Bool) (rn rd : Reg) (o : Op2Imm) : Decoded :=
  match op.toNat with
  | 0 => .ok (.andImm c sf rn rd o)
  | 1 => .ok (.eorImm c sf rn rd o)
  | 2 => .ok (.subImm c sf rn rd o)
  | 3 => .ok (.rsbImm c sf rn rd o)
  | 4 => .ok (.addImm c sf rn rd o)
  | 5 => .ok (.adcImm c sf rn rd o)
  | 6 => .ok (.sbcImm c sf rn rd o)
  | 7 => .ok (.rscImm c sf rn rd o)
  | 8 => decodeCompare rd (.tstImm c rn o)
  | 9 => decodeCompare rd (.teqImm c rn o)
  | 10 => decodeCompare rd (.cmpImm c rn o)
  | 11 => decodeCompare rd (.cmnImm c rn o)
  | 12 => .ok (.orrImm c sf rn rd o)
  | 13 => decodeMove rn (.movImm c sf rd o)
  | 14 => .ok (.bicImm c sf rn rd o)
  | _ => decodeMove rn (.mvnImm c sf rd o)

/-- Data processing, Op2 shifted by an immediate: the sixteen opcodes (R103). -/
def decodeAluShImm (c : Cond) (op : BitVec 4) (sf : Bool) (rn rd : Reg) (o : Op2ShImm) : Decoded :=
  match op.toNat with
  | 0 => .ok (.andShImm c sf rn rd o)
  | 1 => .ok (.eorShImm c sf rn rd o)
  | 2 => .ok (.subShImm c sf rn rd o)
  | 3 => .ok (.rsbShImm c sf rn rd o)
  | 4 => .ok (.addShImm c sf rn rd o)
  | 5 => .ok (.adcShImm c sf rn rd o)
  | 6 => .ok (.sbcShImm c sf rn rd o)
  | 7 => .ok (.rscShImm c sf rn rd o)
  | 8 => decodeCompare rd (.tstShImm c rn o)
  | 9 => decodeCompare rd (.teqShImm c rn o)
  | 10 => decodeCompare rd (.cmpShImm c rn o)
  | 11 => decodeCompare rd (.cmnShImm c rn o)
  | 12 => .ok (.orrShImm c sf rn rd o)
  | 13 => decodeMove rn (.movShImm c sf rd o)
  | 14 => .ok (.bicShImm c sf rn rd o)
  | _ => decodeMove rn (.mvnShImm c sf rd o)

/-- Data processing, Op2 shifted by a register: the sixteen opcodes (R103). -/
def decodeAluShReg (c : Cond) (op : BitVec 4) (sf : Bool) (rn rd : Reg) (o : Op2ShReg) : Decoded :=
  match op.toNat with
  | 0 => .ok (.andShReg c sf rn rd o)
  | 1 => .ok (.eorShReg c sf rn rd o)
  | 2 => .ok (.subShReg c sf rn rd o)
  | 3 => .ok (.rsbShReg c sf rn rd o)
  | 4 => .ok (.addShReg c sf rn rd o)
  | 5 => .ok (.adcShReg c sf rn rd o)
  | 6 => .ok (.sbcShReg c sf rn rd o)
  | 7 => .ok (.rscShReg c sf rn rd o)
  | 8 => decodeCompare rd (.tstShReg c rn o)
  | 9 => decodeCompare rd (.teqShReg c rn o)
  | 10 => decodeCompare rd (.cmpShReg c rn o)
  | 11 => decodeCompare rd (.cmnShReg c rn o)
  | 12 => .ok (.orrShReg c sf rn rd o)
  | 13 => decodeMove rn (.movShReg c sf rd o)
  | 14 => .ok (.bicShReg c sf rn rd o)
  | _ => decodeMove rn (.mvnShReg c sf rd o)

/-- Multiplies: bits 27-22 = 000000 or 27-23 = 00001, bits 7-4 = 1001 (R107); MUL's Rn must be 0000b (R132). -/
def decodeMultiply (c : Cond) (w : Word) : Decoded :=
  let sf := w.getLsbD 20
  let rd : Reg := w.extractLsb' 16 4
  let rn : Reg := w.extractLsb' 12 4
  let rs : Reg := w.extractLsb' 8 4
  let rm : Reg := w.extractLsb' 0 4
  match (w.extractLsb' 21 3).toNat with
  | 0 => if rn = 0#4 then .ok (.mul c sf rd rs rm) else .error .mustBe
  | 1 => .ok (.mla c sf rd rn rs rm)
  | 4 => .ok (.umull c sf rd rn rs rm)
  | 5 => .ok (.umlal c sf rd rn rs rm)
  | 6 => .ok (.smull c sf rd rn rs rm)
  | 7 => .ok (.smlal c sf rd rn rs rm)
  | _ => .error .unallocated

/-- Single data swap: bits 27-23 = 00010, 7-4 = 1001 (R108); Rn = 1111b is unallocated
(spec/47_arm_swap_coproc.md R340). -/
def decodeSwap (c : Cond) (w : Word) : Decoded :=
  let rn : Reg := w.extractLsb' 16 4
  let rd : Reg := w.extractLsb' 12 4
  let rm : Reg := w.extractLsb' 0 4
  if w.extractLsb' 20 2 = 0#2 ∧ w.extractLsb' 8 4 = 0#4 ∧ rn ≠ 15#4 then
    if w.getLsbD 22 then .ok (.swpb c rn rd rm) else .ok (.swp c rn rd rm)
  else .error .unallocated

/-- Halfword and signed transfers with a register offset: bits 11-8 must be 0000b (R109, R132). -/
def decodeHalfReg (c : Cond) (load : Bool) (sh : BitVec 2) (ix : HalfIndex) (w : Word) : Decoded :=
  let up := w.getLsbD 23
  let rn : Reg := w.extractLsb' 16 4
  let rd : Reg := w.extractLsb' 12 4
  let rm : Reg := w.extractLsb' 0 4
  if w.extractLsb' 8 4 = 0#4 then
    if load then
      match sh.toNat with
      | 1 => .ok (.ldrhReg c ix up rn rd rm)
      | 2 => .ok (.ldrsbReg c ix up rn rd rm)
      | _ => .ok (.ldrshReg c ix up rn rd rm)
    else .ok (.strhReg c ix up rn rd rm)
  else .error .mustBe

/-- Halfword and signed transfers with an immediate offset in two nibbles (R104, R109). -/
def decodeHalfImm (c : Cond) (load : Bool) (sh : BitVec 2) (ix : HalfIndex) (w : Word) : Decoded :=
  let up := w.getLsbD 23
  let rn : Reg := w.extractLsb' 16 4
  let rd : Reg := w.extractLsb' 12 4
  let off : BitVec 8 := place 8 4 (w.extractLsb' 8 4) ||| place 8 0 (w.extractLsb' 0 4)
  if load then
    match sh.toNat with
    | 1 => .ok (.ldrhImm c ix up rn rd off)
    | 2 => .ok (.ldrsbImm c ix up rn rd off)
    | _ => .ok (.ldrshImm c ix up rn rd off)
  else .ok (.strhImm c ix up rn rd off)

/-- Bits 27-25 = 000, bit 7 = bit 4 = 1, bits 6-5 not 00 (R102, R109); LDRD and STRD are ARMv5 (R131). -/
def decodeHalf (c : Cond) (w : Word) : Decoded :=
  let load := w.getLsbD 20
  let sh : BitVec 2 := w.extractLsb' 5 2
  if load = false ∧ sh ≠ 1#2 then .error .armv5
  else
    match HalfIndex.ofBits (w.getLsbD 24) (w.getLsbD 21) with
    | none => .error .mustBe
    | some ix => if w.getLsbD 22 then decodeHalfImm c load sh ix w else decodeHalfReg c load sh ix w

/-- The words of ARMv5 in the PSR area: BLX Rn, BKPT, CLZ, QADD and its kin, the halfword multiplies (R131). -/
def isArmv5Psr (c : Cond) (w : Word) : Bool :=
  w.extractLsb' 4 24 == 0x12FFF3#24
    || (c == .al && w.extractLsb' 20 8 == 0x12#8 && w.extractLsb' 4 4 == 0x7#4)
    || (w.extractLsb' 16 12 == 0x16F#12 && w.extractLsb' 4 8 == 0xF1#8)
    || (w.extractLsb' 4 8 == 0x05#8)
    || (w.getLsbD 7 && !w.getLsbD 4)

/-- Bits 27-25 = 000, 24-23 = 10, 20 = 0, not bit 7 = bit 4 = 1: MRS, MSR, BX (R102, R105, R106), else ARMv5 (R131),
a must-be field of MRS or MSR (R132) or unallocated (R130). -/
def decodePsrReg (c : Cond) (w : Word) : Decoded :=
  let psr := w.getLsbD 22
  if w.getLsbD 21 = false ∧ w.extractLsb' 16 4 = 15#4 ∧ w.extractLsb' 0 12 = 0#12 then
    .ok (.mrs c psr (w.extractLsb' 12 4))
  else if w.getLsbD 21 = true ∧ w.extractLsb' 12 4 = 15#4 ∧ w.extractLsb' 4 8 = 0#8 then
    .ok (.msrReg c psr (FieldMask.ofWord w) (w.extractLsb' 0 4))
  else if w.extractLsb' 4 24 = 0x12FFF1#24 then .ok (.bx c (w.extractLsb' 0 4))
  else if isArmv5Psr c w then .error .armv5
  else if w.extractLsb' 4 4 = 0#4 then .error .mustBe
  else .error .unallocated

/-- Bits 27-25 = 000 (R102). -/
def decode000 (c : Cond) (w : Word) : Decoded :=
  if w.getLsbD 7 = true ∧ w.getLsbD 4 = true then
    if w.extractLsb' 5 2 = 0#2 then
      match (w.extractLsb' 23 2).toNat with
      | 0 => if w.getLsbD 22 then .error .unallocated else decodeMultiply c w
      | 1 => decodeMultiply c w
      | 2 => decodeSwap c w
      | _ => .error .unallocated
    else decodeHalf c w
  else if w.extractLsb' 23 2 = 2#2 ∧ w.getLsbD 20 = false then decodePsrReg c w
  else if w.getLsbD 4 then
    decodeAluShReg c (w.extractLsb' 21 4) (w.getLsbD 20) (w.extractLsb' 16 4) (w.extractLsb' 12 4) (Op2ShReg.ofWord w)
  else
    decodeAluShImm c (w.extractLsb' 21 4) (w.getLsbD 20) (w.extractLsb' 16 4) (w.extractLsb' 12 4) (Op2ShImm.ofWord w)

/-- Bits 27-25 = 001 (R102): MSR immediate, or data processing with an immediate. -/
def decode001 (c : Cond) (w : Word) : Decoded :=
  if w.extractLsb' 23 2 = 2#2 ∧ w.getLsbD 20 = false then
    if w.getLsbD 21 then
      if w.extractLsb' 12 4 = 15#4 then .ok (.msrImm c (w.getLsbD 22) (FieldMask.ofWord w) (Op2Imm.ofWord w))
      else .error .mustBe
    else .error .unallocated
  else
    decodeAluImm c (w.extractLsb' 21 4) (w.getLsbD 20) (w.extractLsb' 16 4) (w.extractLsb' 12 4) (Op2Imm.ofWord w)

/-- Single data transfer with an immediate offset (R110): by P, B, L and T/W. -/
def decodeSingleImm (c : Cond) (w : Word) : Decoded :=
  let up := w.getLsbD 23
  let wb := w.getLsbD 21
  let rn : Reg := w.extractLsb' 16 4
  let rd : Reg := w.extractLsb' 12 4
  let o : BitVec 12 := w.extractLsb' 0 12
  match w.getLsbD 24, w.getLsbD 22, w.getLsbD 20 with
  | true, false, true => .ok (.ldrImmPre c up wb rn rd o)
  | true, true, true => .ok (.ldrbImmPre c up wb rn rd o)
  | true, false, false => .ok (.strImmPre c up wb rn rd o)
  | true, true, false => .ok (.strbImmPre c up wb rn rd o)
  | false, false, true => if wb then .ok (.ldrtImm c up rn rd o) else .ok (.ldrImmPost c up rn rd o)
  | false, true, true => if wb then .ok (.ldrbtImm c up rn rd o) else .ok (.ldrbImmPost c up rn rd o)
  | false, false, false => if wb then .ok (.strtImm c up rn rd o) else .ok (.strImmPost c up rn rd o)
  | false, true, false => if wb then .ok (.strbtImm c up rn rd o) else .ok (.strbImmPost c up rn rd o)

/-- Single data transfer with a shifted register offset (R110): by P, B, L and T/W. -/
def decodeSingleReg (c : Cond) (w : Word) : Decoded :=
  let up := w.getLsbD 23
  let wb := w.getLsbD 21
  let rn : Reg := w.extractLsb' 16 4
  let rd : Reg := w.extractLsb' 12 4
  let o : Op2ShImm := Op2ShImm.ofWord w
  match w.getLsbD 24, w.getLsbD 22, w.getLsbD 20 with
  | true, false, true => .ok (.ldrRegPre c up wb rn rd o)
  | true, true, true => .ok (.ldrbRegPre c up wb rn rd o)
  | true, false, false => .ok (.strRegPre c up wb rn rd o)
  | true, true, false => .ok (.strbRegPre c up wb rn rd o)
  | false, false, true => if wb then .ok (.ldrtReg c up rn rd o) else .ok (.ldrRegPost c up rn rd o)
  | false, true, true => if wb then .ok (.ldrbtReg c up rn rd o) else .ok (.ldrbRegPost c up rn rd o)
  | false, false, false => if wb then .ok (.strtReg c up rn rd o) else .ok (.strRegPost c up rn rd o)
  | false, true, false => if wb then .ok (.strbtReg c up rn rd o) else .ok (.strbRegPost c up rn rd o)

/-- Block data transfer (R112): by L, S and bit 15 of the list (spec/46_arm_block_transfer.md R317, R318). -/
def decodeBlock (c : Cond) (w : Word) : Decoded :=
  let pre := w.getLsbD 24
  let up := w.getLsbD 23
  let wb := w.getLsbD 21
  let rn : Reg := w.extractLsb' 16 4
  match w.getLsbD 20, w.getLsbD 22 with
  | false, false => .ok (.stm c pre up wb rn (w.extractLsb' 0 16))
  | true, false => .ok (.ldm c pre up wb rn (w.extractLsb' 0 16))
  | false, true => .ok (.stmS c pre up wb rn (w.extractLsb' 0 16))
  | true, true =>
    if w.getLsbD 15 then .ok (.ldmPcS c pre up wb rn (w.extractLsb' 0 15))
    else .ok (.ldmUserS c pre up wb rn (w.extractLsb' 0 15))

/-- Coprocessor data transfer (R115): LDC, STC. -/
def decodeCoprocTransfer (c : Cond) (w : Word) : Decoded :=
  let pre := w.getLsbD 24
  let up := w.getLsbD 23
  let long := w.getLsbD 22
  let wb := w.getLsbD 21
  let rn : Reg := w.extractLsb' 16 4
  if w.getLsbD 20 then .ok (.ldc c pre up long wb rn (w.extractLsb' 12 4) (w.extractLsb' 8 4) (w.extractLsb' 0 8))
  else .ok (.stc c pre up long wb rn (w.extractLsb' 12 4) (w.extractLsb' 8 4) (w.extractLsb' 0 8))

/-- The operands of MRC and MCR (R115). -/
def CoprocRegOp.ofWord (w : Word) : CoprocRegOp :=
  ⟨w.extractLsb' 21 3, w.extractLsb' 16 4, w.extractLsb' 0 4, w.extractLsb' 5 3⟩

/-- Bits 27-25 = 111 (R102, R114, R115): SWI, CDP, MCR, MRC. -/
def decode111 (c : Cond) (w : Word) : Decoded :=
  if w.getLsbD 24 then .ok (.swi c (w.extractLsb' 0 24))
  else if w.getLsbD 4 then
    if w.getLsbD 20 then .ok (.mrc c (w.extractLsb' 8 4) (CoprocRegOp.ofWord w) (w.extractLsb' 12 4))
    else .ok (.mcr c (w.extractLsb' 8 4) (CoprocRegOp.ofWord w) (w.extractLsb' 12 4))
  else .ok (.cdp c (w.extractLsb' 8 4) (w.extractLsb' 20 4) (w.extractLsb' 12 4) (w.extractLsb' 16 4)
    (w.extractLsb' 0 4) (w.extractLsb' 5 3))

/-- An ARM word whose condition is `c` (R102). -/
def decodeArmWith (c : Cond) (w : Word) : Decoded :=
  match (w.extractLsb' 25 3).toNat with
  | 0 => decode000 c w
  | 1 => decode001 c w
  | 2 => decodeSingleImm c w
  | 3 => if w.getLsbD 4 then .ok (.undefined c (w.extractLsb' 5 20) (w.extractLsb' 0 4)) else decodeSingleReg c w
  | 4 => decodeBlock c w
  | 5 => if w.getLsbD 24 then .ok (.bl c (w.extractLsb' 0 24)) else .ok (.b c (w.extractLsb' 0 24))
  | 6 => decodeCoprocTransfer c w
  | _ => decode111 c w

/-- An ARM word (R100, R102). -/
def decodeArm (w : Word) : Decoded :=
  match Cond.ofCode (w.extractLsb' 28 4) with
  | none => .error .cond1111
  | some c => decodeArmWith c w

/-! ## THUMB (R121, R122) -/

/-- Formats 1 and 2: h[15:13] = 000. -/
def decodeThumb1 (h : Half) : Decoded :=
  let k : BitVec 5 := h.extractLsb' 6 5
  let rn : LoReg := h.extractLsb' 6 3
  let rs : LoReg := h.extractLsb' 3 3
  let rd : LoReg := h.extractLsb' 0 3
  match (h.extractLsb' 11 2).toNat with
  | 0 => .ok (.tLslImm k rs rd)
  | 1 => .ok (.tLsrImm k rs rd)
  | 2 => .ok (.tAsrImm k rs rd)
  | _ =>
    match (h.extractLsb' 9 2).toNat with
    | 0 => .ok (.tAddReg rn rs rd)
    | 1 => .ok (.tSubReg rn rs rd)
    | 2 => .ok (.tAddImm3 rn rs rd)
    | _ => .ok (.tSubImm3 rn rs rd)

/-- Format 3: h[15:13] = 001. -/
def decodeThumb3 (h : Half) : Decoded :=
  let rd : LoReg := h.extractLsb' 8 3
  let nn : BitVec 8 := h.extractLsb' 0 8
  match (h.extractLsb' 11 2).toNat with
  | 0 => .ok (.tMovImm8 rd nn)
  | 1 => .ok (.tCmpImm8 rd nn)
  | 2 => .ok (.tAddImm8 rd nn)
  | _ => .ok (.tSubImm8 rd nn)

/-- Format 4: h[15:10] = 010000. -/
def decodeThumb4 (h : Half) : Decoded :=
  let rs : LoReg := h.extractLsb' 3 3
  let rd : LoReg := h.extractLsb' 0 3
  match (h.extractLsb' 6 4).toNat with
  | 0 => .ok (.tAnd rs rd)
  | 1 => .ok (.tEor rs rd)
  | 2 => .ok (.tLslReg rs rd)
  | 3 => .ok (.tLsrReg rs rd)
  | 4 => .ok (.tAsrReg rs rd)
  | 5 => .ok (.tAdc rs rd)
  | 6 => .ok (.tSbc rs rd)
  | 7 => .ok (.tRor rs rd)
  | 8 => .ok (.tTst rs rd)
  | 9 => .ok (.tNeg rs rd)
  | 10 => .ok (.tCmpReg rs rd)
  | 11 => .ok (.tCmn rs rd)
  | 12 => .ok (.tOrr rs rd)
  | 13 => .ok (.tMul rs rd)
  | 14 => .ok (.tBic rs rd)
  | _ => .ok (.tMvn rs rd)

/-- Format 5: h[15:10] = 010001; both MSBs clear and BLX are reserved (R135), BX needs h[2:0] = 000 (R428). -/
def decodeThumb5 (h : Half) : Decoded :=
  let rsFull : Reg := h.extractLsb' 3 4
  let rs : LoReg := h.extractLsb' 3 3
  let rd : LoReg := h.extractLsb' 0 3
  match (h.extractLsb' 8 2).toNat, h.getLsbD 7, h.getLsbD 6 with
  | 0, true, _ => .ok (.tAddHiDst rsFull rd)
  | 0, false, true => .ok (.tAddHiSrc rs rd)
  | 1, true, _ => .ok (.tCmpHiDst rsFull rd)
  | 1, false, true => .ok (.tCmpHiSrc rs rd)
  | 2, true, _ => .ok (.tMovHiDst rsFull rd)
  | 2, false, true => .ok (.tMovHiSrc rs rd)
  | 3, false, _ => if rd = 0#3 then .ok (.tBx rsFull) else .error .mustBe
  | _, _, _ => .error .thumbReserved

/-- Formats 7 and 8: h[15:12] = 0101. -/
def decodeThumb78 (h : Half) : Decoded :=
  let ro : LoReg := h.extractLsb' 6 3
  let rb : LoReg := h.extractLsb' 3 3
  let rd : LoReg := h.extractLsb' 0 3
  match (h.extractLsb' 9 3).toNat with
  | 0 => .ok (.tStrReg ro rb rd)
  | 2 => .ok (.tStrbReg ro rb rd)
  | 4 => .ok (.tLdrReg ro rb rd)
  | 6 => .ok (.tLdrbReg ro rb rd)
  | 1 => .ok (.tStrhReg ro rb rd)
  | 3 => .ok (.tLdsbReg ro rb rd)
  | 5 => .ok (.tLdrhReg ro rb rd)
  | _ => .ok (.tLdshReg ro rb rd)

/-- Formats 4 to 8: h[15:13] = 010. -/
def decodeThumb010 (h : Half) : Decoded :=
  if h.getLsbD 12 then decodeThumb78 h
  else if h.getLsbD 11 then .ok (.tLdrPc (h.extractLsb' 8 3) (h.extractLsb' 0 8))
  else if h.getLsbD 10 then decodeThumb5 h
  else decodeThumb4 h

/-- Format 9: h[15:13] = 011. -/
def decodeThumb9 (h : Half) : Decoded :=
  let nn : BitVec 5 := h.extractLsb' 6 5
  let rb : LoReg := h.extractLsb' 3 3
  let rd : LoReg := h.extractLsb' 0 3
  match (h.extractLsb' 11 2).toNat with
  | 0 => .ok (.tStrImm nn rb rd)
  | 1 => .ok (.tLdrImm nn rb rd)
  | 2 => .ok (.tStrbImm nn rb rd)
  | _ => .ok (.tLdrbImm nn rb rd)

/-- Formats 10 and 11: h[15:13] = 100. -/
def decodeThumb100 (h : Half) : Decoded :=
  let nn : BitVec 5 := h.extractLsb' 6 5
  let rb : LoReg := h.extractLsb' 3 3
  let rd : LoReg := h.extractLsb' 0 3
  match (h.extractLsb' 11 2).toNat with
  | 0 => .ok (.tStrhImm nn rb rd)
  | 1 => .ok (.tLdrhImm nn rb rd)
  | 2 => .ok (.tStrSp (h.extractLsb' 8 3) (h.extractLsb' 0 8))
  | _ => .ok (.tLdrSp (h.extractLsb' 8 3) (h.extractLsb' 0 8))

/-- Formats 13 and 14 and the reserved rest of h[15:12] = 1011 (R121, R135). -/
def decodeThumb1011 (h : Half) : Decoded :=
  if h.extractLsb' 8 4 = 0#4 then
    if h.getLsbD 7 then .ok (.tSpSub (h.extractLsb' 0 7)) else .ok (.tSpAdd (h.extractLsb' 0 7))
  else if h.extractLsb' 9 2 = 2#2 then
    if h.getLsbD 11 then .ok (.tPop (h.getLsbD 8) (h.extractLsb' 0 8))
    else .ok (.tPush (h.getLsbD 8) (h.extractLsb' 0 8))
  else .error .thumbReserved

/-- Formats 12, 13, 14: h[15:13] = 101. -/
def decodeThumb101 (h : Half) : Decoded :=
  if h.getLsbD 12 then decodeThumb1011 h
  else if h.getLsbD 11 then .ok (.tAddSp (h.extractLsb' 8 3) (h.extractLsb' 0 8))
  else .ok (.tAddPc (h.extractLsb' 8 3) (h.extractLsb' 0 8))

/-- Formats 16 and 17: h[15:12] = 1101; condition Eh is reserved (R135). -/
def decodeThumb1101 (h : Half) : Decoded :=
  let off : BitVec 8 := h.extractLsb' 0 8
  match (h.extractLsb' 8 4).toNat with
  | 0 => .ok (.tBeq off)
  | 1 => .ok (.tBne off)
  | 2 => .ok (.tBcs off)
  | 3 => .ok (.tBcc off)
  | 4 => .ok (.tBmi off)
  | 5 => .ok (.tBpl off)
  | 6 => .ok (.tBvs off)
  | 7 => .ok (.tBvc off)
  | 8 => .ok (.tBhi off)
  | 9 => .ok (.tBls off)
  | 10 => .ok (.tBge off)
  | 11 => .ok (.tBlt off)
  | 12 => .ok (.tBgt off)
  | 13 => .ok (.tBle off)
  | 14 => .error .thumbReserved
  | _ => .ok (.tSwi off)

/-- Formats 15, 16, 17: h[15:13] = 110. -/
def decodeThumb110 (h : Half) : Decoded :=
  if h.getLsbD 12 then decodeThumb1101 h
  else if h.getLsbD 11 then .ok (.tLdmia (h.extractLsb' 8 3) (h.extractLsb' 0 8))
  else .ok (.tStmia (h.extractLsb' 8 3) (h.extractLsb' 0 8))

/-- Formats 18 and 19: h[15:13] = 111; 11101 is ARM9 only (R135). -/
def decodeThumb111 (h : Half) : Decoded :=
  match (h.extractLsb' 11 2).toNat with
  | 0 => .ok (.tB (h.extractLsb' 0 11))
  | 1 => .error .thumbReserved
  | 2 => .ok (.tBlFirst (h.extractLsb' 0 11))
  | _ => .ok (.tBlSecond (h.extractLsb' 0 11))

/-- A THUMB halfword (R100, R121). -/
def decodeThumb (h : Half) : Decoded :=
  match (h.extractLsb' 13 3).toNat with
  | 0 => decodeThumb1 h
  | 1 => decodeThumb3 h
  | 2 => decodeThumb010 h
  | 3 => decodeThumb9 h
  | 4 => decodeThumb100 h
  | 5 => decodeThumb101 h
  | 6 => decodeThumb110 h
  | _ => decodeThumb111 h

/-! ## Bytes -/

/-- The decoder: bytes from the lowest address up, in the state `thumb` names (R61, R100). -/
def decode (thumb : Bool) (bytes : List Byte) : Decoded :=
  match thumb, bytes with
  | true, b0 :: b1 :: _ => decodeThumb (halfOfBytes b0 b1)
  | false, b0 :: b1 :: b2 :: b3 :: _ => decodeArm (wordOfBytes b0 b1 b2 b3)
  | _, _ => .error .truncated

/-- The bytes of an instruction of `nbits` bits, the first at the lowest address (R61): two for a THUMB halfword, four
for an ARM word. -/
def bytesOf (nbits w : Nat) : List Byte :=
  let v : Word := BitVec.ofNat 32 w
  if nbits ≤ 16 then [byteOf v 0, byteOf v 1] else [byteOf v 0, byteOf v 1, byteOf v 2, byteOf v 3]

/-- What the decoder reads from an instruction whose bits are `w`; 16 bits name the THUMB decoder, 32 the ARM one. -/
def decodeTableWord (nbits w : Nat) : Option Instr :=
  match decode (decide (nbits ≤ 16)) (bytesOf nbits w) with
  | .ok i => some i
  | .error _ => none

/-! ## The encoder -/

/-- An instruction's code: an ARM word or a THUMB halfword (R100). -/
inductive Code where
  | arm (w : Word)
  | thumb (h : Half)
  deriving DecidableEq, Repr

/-- Whether a code is a THUMB halfword. -/
def Code.isThumb : Code → Bool
  | .arm _ => false
  | .thumb _ => true

/-- The bytes of a code, lowest address first (R61). -/
def Code.bytes : Code → List Byte
  | .arm w => [byteOf w 0, byteOf w 1, byteOf w 2, byteOf w 3]
  | .thumb h => [byteOf h 0, byteOf h 1]

/-- Bits 11-0 of a rotated immediate (R103). -/
def Op2Imm.bits (o : Op2Imm) : BitVec 12 := place 12 8 o.rot ||| place 12 0 o.imm

/-- Bits 11-0 of a register shifted by an immediate (R103). -/
def Op2ShImm.bits (o : Op2ShImm) : BitVec 12 := place 12 7 o.amount ||| place 12 5 o.type.code ||| place 12 0 o.rm

/-- Bits 11-0 of a register shifted by a register (R103). -/
def Op2ShReg.bits (o : Op2ShReg) : BitVec 12 :=
  place 12 8 o.rs ||| place 12 5 o.type.code ||| place 12 4 1#1 ||| place 12 0 o.rm

/-- Bits 19-16 of MSR (R105). -/
def FieldMask.bits (m : FieldMask) : BitVec 4 :=
  placeBit 4 3 m.f ||| placeBit 4 2 m.s ||| placeBit 4 1 m.x ||| placeBit 4 0 m.c

/-- Condition, eight bits 27-20, two registers in 19-16 and 15-12, and bits 11-0. -/
def armWord (c : Cond) (top : BitVec 8) (r16 r12 : BitVec 4) (low : BitVec 12) : Word :=
  place 32 28 c.code ||| place 32 20 top ||| place 32 16 r16 ||| place 32 12 r12 ||| place 32 0 low

/-- Bits 27-20 of data processing: 00, I, Op, S (R103). -/
def aluTop (imm : Bool) (op : BitVec 4) (sf : Bool) : BitVec 8 :=
  placeBit 8 5 imm ||| place 8 1 op ||| placeBit 8 0 sf

/-- Bits 27-20 of the multiplies: 0000, three opcode bits, S (R107). -/
def mulTop (op : BitVec 3) (sf : Bool) : BitVec 8 := place 8 1 op ||| placeBit 8 0 sf

/-- Bits 11-0 of the multiplies and the swap: Rs, 1001, Rm (R107, R108). -/
def mulLow (rs rm : Reg) : BitVec 12 := place 12 8 rs ||| place 12 4 0b1001#4 ||| place 12 0 rm

/-- Bits 27-20 of PSR transfers: 00, I, 10, Psr, opcode, 0 (R105). -/
def psrTop (imm psr msr : Bool) : BitVec 8 :=
  placeBit 8 5 imm ||| place 8 3 0b10#2 ||| placeBit 8 2 psr ||| placeBit 8 1 msr

/-- Bits 27-20 of the five transfer formats: class, P, U, B (or I, S, N), W (or T), L (R109, R110, R112, R115). -/
def transferTop (cls : BitVec 3) (p u b w l : Bool) : BitVec 8 :=
  place 8 5 cls ||| placeBit 8 4 p ||| placeBit 8 3 u ||| placeBit 8 2 b ||| placeBit 8 1 w ||| placeBit 8 0 l

/-- Bits 11-0 of halfword transfers: a nibble, 1, opcode, 1, a nibble (R109). -/
def halfLow (high : BitVec 4) (sh : BitVec 2) (low : BitVec 4) : BitVec 12 :=
  place 12 8 high ||| place 12 7 1#1 ||| place 12 5 sh ||| place 12 4 1#1 ||| place 12 0 low

/-- The P bit of a halfword transfer (R109). -/
def HalfIndex.p : HalfIndex → Bool
  | .pre _ => true
  | .post => false

/-- The W bit of a halfword transfer: 0 when P=0 (R109). -/
def HalfIndex.w : HalfIndex → Bool
  | .pre wb => wb
  | .post => false

/-- A halfword transfer with a register offset (R109). -/
def halfRegWord (c : Cond) (load : Bool) (sh : BitVec 2) (ix : HalfIndex) (up : Bool) (rn rd rm : Reg) : Code :=
  .arm (armWord c (transferTop 0b000#3 ix.p up false ix.w load) rn rd (halfLow 0#4 sh rm))

/-- A halfword transfer with an immediate offset (R104, R109). -/
def halfImmWord (c : Cond) (load : Bool) (sh : BitVec 2) (ix : HalfIndex) (up : Bool) (rn rd : Reg)
    (off : BitVec 8) : Code :=
  .arm (armWord c (transferTop 0b000#3 ix.p up true ix.w load) rn rd
    (halfLow (off.extractLsb' 4 4) sh (off.extractLsb' 0 4)))

/-- A block transfer (R112). -/
def blockWord (c : Cond) (p u s w l : Bool) (rn : Reg) (list : BitVec 16) : Code :=
  .arm (place 32 28 c.code ||| place 32 20 (transferTop 0b100#3 p u s w l) ||| place 32 16 rn ||| place 32 0 list)

/-- A coprocessor register transfer (R115): MRC with `load`, else MCR. -/
def coprocRegWord (c : Cond) (load : Bool) (p : BitVec 4) (op : CoprocRegOp) (rd : Reg) : Code :=
  .arm (armWord c (place 8 4 0b1110#4 ||| place 8 1 op.cpopc ||| placeBit 8 0 load) op.cn rd
    (place 12 8 p ||| place 12 5 op.cp ||| place 12 4 1#1 ||| place 12 0 op.cm))

/-- A coprocessor data transfer (R115): LDC with `load`, else STC. -/
def coprocMemWord (c : Cond) (p u n w load : Bool) (rn : Reg) (cd pn : BitVec 4) (off : BitVec 8) : Code :=
  .arm (armWord c (transferTop 0b110#3 p u n w load) rn cd (place 12 8 pn ||| place 12 0 off))

/-- THUMB formats 1, 9, 10: five bits, a 5bit field, two registers (R120). -/
def thumb5 (top : BitVec 5) (k : BitVec 5) (rs rd : LoReg) : Code :=
  .thumb (place 16 11 top ||| place 16 6 k ||| place 16 3 rs ||| place 16 0 rd)

/-- THUMB formats 2, 7, 8: seven bits and three 3bit fields (R120). -/
def thumb3 (top : BitVec 7) (a b d : BitVec 3) : Code :=
  .thumb (place 16 9 top ||| place 16 6 a ||| place 16 3 b ||| place 16 0 d)

/-- THUMB formats 3, 6, 11, 12, 15: five bits, a register, eight bits (R120). -/
def thumb8 (top : BitVec 5) (rd : LoReg) (nn : BitVec 8) : Code :=
  .thumb (place 16 11 top ||| place 16 8 rd ||| place 16 0 nn)

/-- THUMB format 4 (R120). -/
def thumbAlu (op : BitVec 4) (rs rd : LoReg) : Code :=
  .thumb (place 16 10 0b010000#6 ||| place 16 6 op ||| place 16 3 rs ||| place 16 0 rd)

/-- THUMB format 5: opcode, MSBd, the full source number, Rd (R120, R122). -/
def thumbHi (op : BitVec 2) (msbd : Bool) (rs : Reg) (rd : LoReg) : Code :=
  .thumb (place 16 10 0b010001#6 ||| place 16 8 op ||| placeBit 16 7 msbd ||| place 16 3 rs ||| place 16 0 rd)

/-- R8+n as a register number. -/
def hiReg (n : LoReg) : Reg := place 4 3 1#1 ||| place 4 0 n

/-- THUMB format 14 (R120). -/
def thumbStack (load r : Bool) (list : BitVec 8) : Code :=
  .thumb (place 16 12 0b1011#4 ||| placeBit 16 11 load ||| place 16 9 0b10#2 ||| placeBit 16 8 r ||| place 16 0 list)

/-- THUMB formats 16 and 17: 1101, four bits, eight bits (R120). -/
def thumbCond (cond : BitVec 4) (off : BitVec 8) : Code :=
  .thumb (place 16 12 0b1101#4 ||| place 16 8 cond ||| place 16 0 off)

/-- THUMB formats 18 and 19: five bits and eleven (R120). -/
def thumb11 (top : BitVec 5) (nn : BitVec 11) : Code := .thumb (place 16 11 top ||| place 16 0 nn)

/-- THUMB format 13 (R120). -/
def thumbSp (neg : Bool) (nn : BitVec 7) : Code :=
  .thumb (place 16 8 0b10110000#8 ||| placeBit 16 7 neg ||| place 16 0 nn)

/-- The encoder, constructor by constructor (the `match` words of spec/opcode_table.json with the fields put in). -/
def encode : Instr → Code
  | .b c off => .arm (place 32 28 c.code ||| place 32 24 0b1010#4 ||| place 32 0 off)
  | .bl c off => .arm (place 32 28 c.code ||| place 32 24 0b1011#4 ||| place 32 0 off)
  | .bx c rn => .arm (place 32 28 c.code ||| place 32 4 0x12FFF1#24 ||| place 32 0 rn)
  | .swi c comment => .arm (place 32 28 c.code ||| place 32 24 0b1111#4 ||| place 32 0 comment)
  | .undefined c hi lo =>
    .arm (place 32 28 c.code ||| place 32 25 0b011#3 ||| place 32 5 hi ||| place 32 4 1#1 ||| place 32 0 lo)
  | .andImm c sf rn rd o => .arm (armWord c (aluTop true 0b0000#4 sf) rn rd o.bits)
  | .andShImm c sf rn rd o => .arm (armWord c (aluTop false 0b0000#4 sf) rn rd o.bits)
  | .andShReg c sf rn rd o => .arm (armWord c (aluTop false 0b0000#4 sf) rn rd o.bits)
  | .eorImm c sf rn rd o => .arm (armWord c (aluTop true 0b0001#4 sf) rn rd o.bits)
  | .eorShImm c sf rn rd o => .arm (armWord c (aluTop false 0b0001#4 sf) rn rd o.bits)
  | .eorShReg c sf rn rd o => .arm (armWord c (aluTop false 0b0001#4 sf) rn rd o.bits)
  | .subImm c sf rn rd o => .arm (armWord c (aluTop true 0b0010#4 sf) rn rd o.bits)
  | .subShImm c sf rn rd o => .arm (armWord c (aluTop false 0b0010#4 sf) rn rd o.bits)
  | .subShReg c sf rn rd o => .arm (armWord c (aluTop false 0b0010#4 sf) rn rd o.bits)
  | .rsbImm c sf rn rd o => .arm (armWord c (aluTop true 0b0011#4 sf) rn rd o.bits)
  | .rsbShImm c sf rn rd o => .arm (armWord c (aluTop false 0b0011#4 sf) rn rd o.bits)
  | .rsbShReg c sf rn rd o => .arm (armWord c (aluTop false 0b0011#4 sf) rn rd o.bits)
  | .addImm c sf rn rd o => .arm (armWord c (aluTop true 0b0100#4 sf) rn rd o.bits)
  | .addShImm c sf rn rd o => .arm (armWord c (aluTop false 0b0100#4 sf) rn rd o.bits)
  | .addShReg c sf rn rd o => .arm (armWord c (aluTop false 0b0100#4 sf) rn rd o.bits)
  | .adcImm c sf rn rd o => .arm (armWord c (aluTop true 0b0101#4 sf) rn rd o.bits)
  | .adcShImm c sf rn rd o => .arm (armWord c (aluTop false 0b0101#4 sf) rn rd o.bits)
  | .adcShReg c sf rn rd o => .arm (armWord c (aluTop false 0b0101#4 sf) rn rd o.bits)
  | .sbcImm c sf rn rd o => .arm (armWord c (aluTop true 0b0110#4 sf) rn rd o.bits)
  | .sbcShImm c sf rn rd o => .arm (armWord c (aluTop false 0b0110#4 sf) rn rd o.bits)
  | .sbcShReg c sf rn rd o => .arm (armWord c (aluTop false 0b0110#4 sf) rn rd o.bits)
  | .rscImm c sf rn rd o => .arm (armWord c (aluTop true 0b0111#4 sf) rn rd o.bits)
  | .rscShImm c sf rn rd o => .arm (armWord c (aluTop false 0b0111#4 sf) rn rd o.bits)
  | .rscShReg c sf rn rd o => .arm (armWord c (aluTop false 0b0111#4 sf) rn rd o.bits)
  | .tstImm c rn o => .arm (armWord c (aluTop true 0b1000#4 true) rn 0#4 o.bits)
  | .tstShImm c rn o => .arm (armWord c (aluTop false 0b1000#4 true) rn 0#4 o.bits)
  | .tstShReg c rn o => .arm (armWord c (aluTop false 0b1000#4 true) rn 0#4 o.bits)
  | .teqImm c rn o => .arm (armWord c (aluTop true 0b1001#4 true) rn 0#4 o.bits)
  | .teqShImm c rn o => .arm (armWord c (aluTop false 0b1001#4 true) rn 0#4 o.bits)
  | .teqShReg c rn o => .arm (armWord c (aluTop false 0b1001#4 true) rn 0#4 o.bits)
  | .cmpImm c rn o => .arm (armWord c (aluTop true 0b1010#4 true) rn 0#4 o.bits)
  | .cmpShImm c rn o => .arm (armWord c (aluTop false 0b1010#4 true) rn 0#4 o.bits)
  | .cmpShReg c rn o => .arm (armWord c (aluTop false 0b1010#4 true) rn 0#4 o.bits)
  | .cmnImm c rn o => .arm (armWord c (aluTop true 0b1011#4 true) rn 0#4 o.bits)
  | .cmnShImm c rn o => .arm (armWord c (aluTop false 0b1011#4 true) rn 0#4 o.bits)
  | .cmnShReg c rn o => .arm (armWord c (aluTop false 0b1011#4 true) rn 0#4 o.bits)
  | .orrImm c sf rn rd o => .arm (armWord c (aluTop true 0b1100#4 sf) rn rd o.bits)
  | .orrShImm c sf rn rd o => .arm (armWord c (aluTop false 0b1100#4 sf) rn rd o.bits)
  | .orrShReg c sf rn rd o => .arm (armWord c (aluTop false 0b1100#4 sf) rn rd o.bits)
  | .movImm c sf rd o => .arm (armWord c (aluTop true 0b1101#4 sf) 0#4 rd o.bits)
  | .movShImm c sf rd o => .arm (armWord c (aluTop false 0b1101#4 sf) 0#4 rd o.bits)
  | .movShReg c sf rd o => .arm (armWord c (aluTop false 0b1101#4 sf) 0#4 rd o.bits)
  | .bicImm c sf rn rd o => .arm (armWord c (aluTop true 0b1110#4 sf) rn rd o.bits)
  | .bicShImm c sf rn rd o => .arm (armWord c (aluTop false 0b1110#4 sf) rn rd o.bits)
  | .bicShReg c sf rn rd o => .arm (armWord c (aluTop false 0b1110#4 sf) rn rd o.bits)
  | .mvnImm c sf rd o => .arm (armWord c (aluTop true 0b1111#4 sf) 0#4 rd o.bits)
  | .mvnShImm c sf rd o => .arm (armWord c (aluTop false 0b1111#4 sf) 0#4 rd o.bits)
  | .mvnShReg c sf rd o => .arm (armWord c (aluTop false 0b1111#4 sf) 0#4 rd o.bits)
  | .mul c sf rd rs rm => .arm (armWord c (mulTop 0b000#3 sf) rd 0#4 (mulLow rs rm))
  | .mla c sf rd rn rs rm => .arm (armWord c (mulTop 0b001#3 sf) rd rn (mulLow rs rm))
  | .umull c sf hi lo rs rm => .arm (armWord c (mulTop 0b100#3 sf) hi lo (mulLow rs rm))
  | .umlal c sf hi lo rs rm => .arm (armWord c (mulTop 0b101#3 sf) hi lo (mulLow rs rm))
  | .smull c sf hi lo rs rm => .arm (armWord c (mulTop 0b110#3 sf) hi lo (mulLow rs rm))
  | .smlal c sf hi lo rs rm => .arm (armWord c (mulTop 0b111#3 sf) hi lo (mulLow rs rm))
  | .mrs c psr rd => .arm (armWord c (psrTop false psr false) 15#4 rd 0#12)
  | .msrReg c psr m rm => .arm (armWord c (psrTop false psr true) m.bits 15#4 (place 12 0 rm))
  | .msrImm c psr m o => .arm (armWord c (psrTop true psr true) m.bits 15#4 o.bits)
  | .ldrImmPre c up wb rn rd o => .arm (armWord c (transferTop 0b010#3 true up false wb true) rn rd o)
  | .ldrImmPost c up rn rd o => .arm (armWord c (transferTop 0b010#3 false up false false true) rn rd o)
  | .ldrRegPre c up wb rn rd o => .arm (armWord c (transferTop 0b011#3 true up false wb true) rn rd o.bits)
  | .ldrRegPost c up rn rd o => .arm (armWord c (transferTop 0b011#3 false up false false true) rn rd o.bits)
  | .ldrbImmPre c up wb rn rd o => .arm (armWord c (transferTop 0b010#3 true up true wb true) rn rd o)
  | .ldrbImmPost c up rn rd o => .arm (armWord c (transferTop 0b010#3 false up true false true) rn rd o)
  | .ldrbRegPre c up wb rn rd o => .arm (armWord c (transferTop 0b011#3 true up true wb true) rn rd o.bits)
  | .ldrbRegPost c up rn rd o => .arm (armWord c (transferTop 0b011#3 false up true false true) rn rd o.bits)
  | .strImmPre c up wb rn rd o => .arm (armWord c (transferTop 0b010#3 true up false wb false) rn rd o)
  | .strImmPost c up rn rd o => .arm (armWord c (transferTop 0b010#3 false up false false false) rn rd o)
  | .strRegPre c up wb rn rd o => .arm (armWord c (transferTop 0b011#3 true up false wb false) rn rd o.bits)
  | .strRegPost c up rn rd o => .arm (armWord c (transferTop 0b011#3 false up false false false) rn rd o.bits)
  | .strbImmPre c up wb rn rd o => .arm (armWord c (transferTop 0b010#3 true up true wb false) rn rd o)
  | .strbImmPost c up rn rd o => .arm (armWord c (transferTop 0b010#3 false up true false false) rn rd o)
  | .strbRegPre c up wb rn rd o => .arm (armWord c (transferTop 0b011#3 true up true wb false) rn rd o.bits)
  | .strbRegPost c up rn rd o => .arm (armWord c (transferTop 0b011#3 false up true false false) rn rd o.bits)
  | .ldrtImm c up rn rd o => .arm (armWord c (transferTop 0b010#3 false up false true true) rn rd o)
  | .ldrtReg c up rn rd o => .arm (armWord c (transferTop 0b011#3 false up false true true) rn rd o.bits)
  | .ldrbtImm c up rn rd o => .arm (armWord c (transferTop 0b010#3 false up true true true) rn rd o)
  | .ldrbtReg c up rn rd o => .arm (armWord c (transferTop 0b011#3 false up true true true) rn rd o.bits)
  | .strtImm c up rn rd o => .arm (armWord c (transferTop 0b010#3 false up false true false) rn rd o)
  | .strtReg c up rn rd o => .arm (armWord c (transferTop 0b011#3 false up false true false) rn rd o.bits)
  | .strbtImm c up rn rd o => .arm (armWord c (transferTop 0b010#3 false up true true false) rn rd o)
  | .strbtReg c up rn rd o => .arm (armWord c (transferTop 0b011#3 false up true true false) rn rd o.bits)
  | .strhReg c ix up rn rd rm => halfRegWord c false 0b01#2 ix up rn rd rm
  | .strhImm c ix up rn rd off => halfImmWord c false 0b01#2 ix up rn rd off
  | .ldrhReg c ix up rn rd rm => halfRegWord c true 0b01#2 ix up rn rd rm
  | .ldrhImm c ix up rn rd off => halfImmWord c true 0b01#2 ix up rn rd off
  | .ldrsbReg c ix up rn rd rm => halfRegWord c true 0b10#2 ix up rn rd rm
  | .ldrsbImm c ix up rn rd off => halfImmWord c true 0b10#2 ix up rn rd off
  | .ldrshReg c ix up rn rd rm => halfRegWord c true 0b11#2 ix up rn rd rm
  | .ldrshImm c ix up rn rd off => halfImmWord c true 0b11#2 ix up rn rd off
  | .stm c pre up wb rn list => blockWord c pre up false wb false rn list
  | .ldm c pre up wb rn list => blockWord c pre up false wb true rn list
  | .ldmPcS c pre up wb rn list => blockWord c pre up true wb true rn (place 16 15 1#1 ||| place 16 0 list)
  | .stmS c pre up wb rn list => blockWord c pre up true wb false rn list
  | .ldmUserS c pre up wb rn list => blockWord c pre up true wb true rn (place 16 0 list)
  | .swp c rn rd rm => .arm (armWord c 0b00010000#8 rn rd (mulLow 0#4 rm))
  | .swpb c rn rd rm => .arm (armWord c 0b00010100#8 rn rd (mulLow 0#4 rm))
  | .mrc c p op rd => coprocRegWord c true p op rd
  | .mcr c p op rd => coprocRegWord c false p op rd
  | .cdp c p cpopc cd cn cm cp =>
    .arm (armWord c (place 8 4 0b1110#4 ||| place 8 0 cpopc) cn cd (place 12 8 p ||| place 12 5 cp ||| place 12 0 cm))
  | .ldc c pre up long wb rn cd p off => coprocMemWord c pre up long wb true rn cd p off
  | .stc c pre up long wb rn cd p off => coprocMemWord c pre up long wb false rn cd p off
  | .tLslImm k rs rd => thumb5 0b00000#5 k rs rd
  | .tLsrImm k rs rd => thumb5 0b00001#5 k rs rd
  | .tAsrImm k rs rd => thumb5 0b00010#5 k rs rd
  | .tAddReg rn rs rd => thumb3 0b0001100#7 rn rs rd
  | .tSubReg rn rs rd => thumb3 0b0001101#7 rn rs rd
  | .tAddImm3 nn rs rd => thumb3 0b0001110#7 nn rs rd
  | .tSubImm3 nn rs rd => thumb3 0b0001111#7 nn rs rd
  | .tMovImm8 rd nn => thumb8 0b00100#5 rd nn
  | .tCmpImm8 rd nn => thumb8 0b00101#5 rd nn
  | .tAddImm8 rd nn => thumb8 0b00110#5 rd nn
  | .tSubImm8 rd nn => thumb8 0b00111#5 rd nn
  | .tAnd rs rd => thumbAlu 0b0000#4 rs rd
  | .tEor rs rd => thumbAlu 0b0001#4 rs rd
  | .tLslReg rs rd => thumbAlu 0b0010#4 rs rd
  | .tLsrReg rs rd => thumbAlu 0b0011#4 rs rd
  | .tAsrReg rs rd => thumbAlu 0b0100#4 rs rd
  | .tAdc rs rd => thumbAlu 0b0101#4 rs rd
  | .tSbc rs rd => thumbAlu 0b0110#4 rs rd
  | .tRor rs rd => thumbAlu 0b0111#4 rs rd
  | .tTst rs rd => thumbAlu 0b1000#4 rs rd
  | .tNeg rs rd => thumbAlu 0b1001#4 rs rd
  | .tCmpReg rs rd => thumbAlu 0b1010#4 rs rd
  | .tCmn rs rd => thumbAlu 0b1011#4 rs rd
  | .tOrr rs rd => thumbAlu 0b1100#4 rs rd
  | .tMul rs rd => thumbAlu 0b1101#4 rs rd
  | .tBic rs rd => thumbAlu 0b1110#4 rs rd
  | .tMvn rs rd => thumbAlu 0b1111#4 rs rd
  | .tAddHiDst rs rd => thumbHi 0b00#2 true rs rd
  | .tAddHiSrc rs rd => thumbHi 0b00#2 false (hiReg rs) rd
  | .tCmpHiDst rs rd => thumbHi 0b01#2 true rs rd
  | .tCmpHiSrc rs rd => thumbHi 0b01#2 false (hiReg rs) rd
  | .tMovHiDst rs rd => thumbHi 0b10#2 true rs rd
  | .tMovHiSrc rs rd => thumbHi 0b10#2 false (hiReg rs) rd
  | .tBx rs => thumbHi 0b11#2 false rs 0#3
  | .tLdrPc rd nn => thumb8 0b01001#5 rd nn
  | .tStrReg ro rb rd => thumb3 0b0101000#7 ro rb rd
  | .tStrbReg ro rb rd => thumb3 0b0101010#7 ro rb rd
  | .tLdrReg ro rb rd => thumb3 0b0101100#7 ro rb rd
  | .tLdrbReg ro rb rd => thumb3 0b0101110#7 ro rb rd
  | .tStrhReg ro rb rd => thumb3 0b0101001#7 ro rb rd
  | .tLdsbReg ro rb rd => thumb3 0b0101011#7 ro rb rd
  | .tLdrhReg ro rb rd => thumb3 0b0101101#7 ro rb rd
  | .tLdshReg ro rb rd => thumb3 0b0101111#7 ro rb rd
  | .tStrImm nn rb rd => thumb5 0b01100#5 nn rb rd
  | .tLdrImm nn rb rd => thumb5 0b01101#5 nn rb rd
  | .tStrbImm nn rb rd => thumb5 0b01110#5 nn rb rd
  | .tLdrbImm nn rb rd => thumb5 0b01111#5 nn rb rd
  | .tStrhImm nn rb rd => thumb5 0b10000#5 nn rb rd
  | .tLdrhImm nn rb rd => thumb5 0b10001#5 nn rb rd
  | .tStrSp rd nn => thumb8 0b10010#5 rd nn
  | .tLdrSp rd nn => thumb8 0b10011#5 rd nn
  | .tAddPc rd nn => thumb8 0b10100#5 rd nn
  | .tAddSp rd nn => thumb8 0b10101#5 rd nn
  | .tSpAdd nn => thumbSp false nn
  | .tSpSub nn => thumbSp true nn
  | .tPush lr list => thumbStack false lr list
  | .tPop pc list => thumbStack true pc list
  | .tStmia rb list => thumb8 0b11000#5 rb list
  | .tLdmia rb list => thumb8 0b11001#5 rb list
  | .tBeq off => thumbCond 0b0000#4 off
  | .tBne off => thumbCond 0b0001#4 off
  | .tBcs off => thumbCond 0b0010#4 off
  | .tBcc off => thumbCond 0b0011#4 off
  | .tBmi off => thumbCond 0b0100#4 off
  | .tBpl off => thumbCond 0b0101#4 off
  | .tBvs off => thumbCond 0b0110#4 off
  | .tBvc off => thumbCond 0b0111#4 off
  | .tBhi off => thumbCond 0b1000#4 off
  | .tBls off => thumbCond 0b1001#4 off
  | .tBge off => thumbCond 0b1010#4 off
  | .tBlt off => thumbCond 0b1011#4 off
  | .tBgt off => thumbCond 0b1100#4 off
  | .tBle off => thumbCond 0b1101#4 off
  | .tSwi comment => thumbCond 0b1111#4 comment
  | .tB off => thumb11 0b11100#5 off
  | .tBlFirst nn => thumb11 0b11110#5 nn
  | .tBlSecond nn => thumb11 0b11111#5 nn

end Sys2Proof
end

