-- ==== Sys2Proof/Machine/State.lean ====
section
/-! DEFINITION. The state of the machine as plain data: everything spec/10_state.md gives the core, the open parameters
of the spec (inputs, platform) and the model's own counters. Also the reasons a step stops, and the state after reset. -/

namespace Sys2Proof.Machine

/-- The seven modes (spec/10_state.md R38). -/
inductive Mode where
  | usr | fiq | irq | svc | abt | und | sys
  deriving DecidableEq, Repr

/-- The condition code flags N, Z, C, V: bits 31-28 of a PSR (spec/10_state.md R33, R34). -/
structure Nzcv where
  n : Bool
  z : Bool
  c : Bool
  v : Bool
  deriving DecidableEq, Repr

/-- The CPSR: the flags, I, F, T and the mode that M4-M0 names (spec/10_state.md R33, R38, R39). Bits 27-8 are not
state (R36). -/
structure Cpsr where
  flags : Nzcv
  i : Bool
  f : Bool
  t : Bool
  mode : Mode
  deriving DecidableEq, Repr

/-- An SPSR: plain storage of the twelve bits, whatever the mode bits are (spec/10_state.md R32, R33, R39). -/
structure Psr where
  flags : Nzcv
  i : Bool
  f : Bool
  t : Bool
  m : BitVec 5
  deriving DecidableEq, Repr

/-- The five SPSRs (spec/10_state.md R32). -/
structure Spsrs where
  fiq : Psr
  svc : Psr
  abt : Psr
  irq : Psr
  und : Psr
  deriving DecidableEq, Repr

/-- The 30 general registers beside R15 (spec/10_state.md R21); R13 and R14 are those of User and System mode. -/
structure Regs where
  r0 : Word
  r1 : Word
  r2 : Word
  r3 : Word
  r4 : Word
  r5 : Word
  r6 : Word
  r7 : Word
  r8 : Word
  r9 : Word
  r10 : Word
  r11 : Word
  r12 : Word
  r13 : Word
  r14 : Word
  r8Fiq : Word
  r9Fiq : Word
  r10Fiq : Word
  r11Fiq : Word
  r12Fiq : Word
  r13Fiq : Word
  r14Fiq : Word
  r13Svc : Word
  r14Svc : Word
  r13Abt : Word
  r14Abt : Word
  r13Irq : Word
  r14Irq : Word
  r13Und : Word
  r14Und : Word
  deriving DecidableEq, Repr

/-- The names of the 30 general registers beside R15 (spec/10_state.md R21). -/
inductive GReg where
  | r0 | r1 | r2 | r3 | r4 | r5 | r6 | r7 | r8 | r9 | r10 | r11 | r12 | r13 | r14
  | r8Fiq | r9Fiq | r10Fiq | r11Fiq | r12Fiq | r13Fiq | r14Fiq
  | r13Svc | r14Svc | r13Abt | r14Abt | r13Irq | r14Irq | r13Und | r14Und
  deriving DecidableEq, Repr

/-- Memory: the bytes that differ from what an unlisted address reads as (0), addresses strictly rising; the form is
`Memory.wf`. The address space is 2^32 bytes (spec/20_memory.md R60). -/
abbrev Memory := List Host.Cell

/-- The bytes one store wrote: `len` bytes from `addr`. -/
structure Span where
  addr : Word
  len : Nat
  deriving DecidableEq, Repr

/-- The stores that the read-ahead may not have seen (spec/20_memory.md R84): those of the last instruction and of the
one before it, since the last write to the PC. -/
structure StoreWindow where
  last : List Span
  prev : List Span
  deriving DecidableEq, Repr

/-- The level of an interrupt input, LOW = asserted (spec/60_exceptions.md R560). -/
inductive Level where
  | low | high
  deriving DecidableEq, Repr

/-- One sample of the inputs, taken at an instruction boundary (spec/60_exceptions.md R560, R566;
spec/70_reset_and_hazards.md R601). -/
structure Inputs where
  reset : Bool
  nFIQ : Level
  nIRQ : Level
  deriving DecidableEq, Repr

/-- The kinds of `Platform.aborts` (spec/20_memory.md R77). -/
inductive AccessKind where
  | fetch | read | write
  deriving DecidableEq, Repr

/-- A set of accesses that the memory system aborts: those of this kind, width and privilege whose address lies in
`first`..`last` (spec/20_memory.md R77; the privilege: spec/92_eei_decisions.md D29). -/
structure AbortRange where
  kind : AccessKind
  width : Width
  user : Bool
  first : Word
  last : Word
  deriving DecidableEq, Repr

/-- An address window that is a device of the platform, `first`..`last` (spec/20_memory.md R75). -/
structure DeviceRange where
  first : Word
  last : Word
  deriving DecidableEq, Repr

/-- The platform parameters: which accesses abort (R77), which windows are devices (R75), which coprocessors are
attached (spec/47_arm_swap_coproc.md R350), and the switch `NV_NEVER_EXECUTES` (spec/10_state.md R46). A range with
nothing in it has no form of its own: the platform lists it as a device window or as an abort range (DESIGN CHOICE,
log 28). -/
structure Platform where
  aborts : List AbortRange
  devices : List DeviceRange
  coprocs : List (BitVec 4)
  nvNeverExecutes : Bool
  deriving DecidableEq, Repr

/-- The state of the machine. -/
structure State where
  /-- The general registers beside R15 (spec/10_state.md R21). -/
  regs : Regs
  /-- The address of the executing instruction; R15 (spec/10_state.md R26). -/
  pc : Word
  /-- spec/10_state.md R33. -/
  cpsr : Cpsr
  /-- spec/10_state.md R32. -/
  spsrs : Spsrs
  /-- spec/20_memory.md R60. -/
  mem : Memory
  /-- spec/20_memory.md R84. -/
  window : StoreWindow
  /-- The instruction executed last was an LDM of the user bank, completed or aborted (spec/70_reset_and_hazards.md R620;
  log 11). -/
  userLdm : Bool
  /-- The input samples still to come; an exhausted list is HIGH, HIGH, no reset (R560, R601; log 6). -/
  inputs : List Inputs
  /-- The open parameters of the platform. -/
  platform : Platform
  /-- The model's own: the accesses made to device windows, newest first (log 8). -/
  deviceLog : List BusEvent
  /-- The model's own: what the attached coprocessors were sent, newest first (log 9). -/
  coprocLog : List CoprocEvent
  /-- The model's own: how many free values have been drawn (log 5). -/
  free : Nat
  deriving DecidableEq, Repr

/-- The reasons a step ends in a fault. The hardware has none: its exceptions are next states. -/
inductive Fault where
  /-- Raised by the fetch when pc is not a multiple of the instruction size: no run reaches it, since every write to
  the PC is aligned (spec/10_state.md R26, R29) and `MemRead` is given for aligned addresses only (spec/00_scope.md
  R10). Safe: the model stops where the spec gives no access (log 22). -/
  | pcMisaligned
  deriving DecidableEq, Repr

/-- The reasons a step is refused: each `refuse(reason)` of the spec under a name of its own. All are safe: the model
stops where the hardware goes on in a way no source states. -/
inductive Refusal where
  /-- Raised by an arm of exec whose instruction has no meaning yet. Safe. -/
  | notModelled (mnemonic : String)
  /-- Raised by the step: condition field 1111b (spec/10_state.md R46). Safe. -/
  | cond1111
  /-- Raised by the step: an ARM word of spec/30_encoding.md R130. Safe. -/
  | unallocatedEncoding
  /-- Raised by the step: an ARM word of spec/30_encoding.md R131. Safe. -/
  | armv5Encoding
  /-- Raised by the step: a must-be field with another value (spec/30_encoding.md R132). Safe. -/
  | mustBeField
  /-- Raised by the step: TSTP, TEQP, CMPP, CMNP (spec/41_arm_alu.md R186). Safe. -/
  | comparePForm
  /-- Raised by the step: a THUMB halfword of spec/30_encoding.md R135. Safe. -/
  | thumbReserved
  /-- Raised by data processing with a shift by R15 (spec/41_arm_alu.md R173). Safe. -/
  | shiftRegisterR15
  /-- Raised by ARM BX R15 (spec/40_arm_branch.md R154). Safe. -/
  | bxR15
  /-- Raised by MUL, MLA with Rd = Rm (spec/42_arm_multiply.md R220). Safe. -/
  | mulRdEqRm
  /-- Raised by the ARM multiplies with R15 in a register field (spec/42_arm_multiply.md R220, R227). Safe. -/
  | r15InMultiply
  /-- Raised by the long multiplies with two of RdHi, RdLo, Rm equal (spec/42_arm_multiply.md R227). Safe. -/
  | longMultiplyEqualRegs
  /-- Raised by MRS with Rd = R15 (spec/43_arm_psr.md R240). Safe. -/
  | mrsRdR15
  /-- Raised by MSR with Rm = R15 (spec/43_arm_psr.md R241). Safe. -/
  | msrRmR15
  /-- Raised by MRS, MSR of an SPSR and by the CPSR-restoring forms in User and System mode (spec/43_arm_psr.md R248,
  spec/41_arm_alu.md R184, spec/46_arm_block_transfer.md R317). Safe. -/
  | noSpsr
  /-- Raised when mode bits other than the seven would reach the CPSR (spec/10_state.md R39). Safe. -/
  | illegalMode
  /-- Raised by MSR when it would change CPSR.T (spec/43_arm_psr.md R246). Safe. -/
  | tChangedByMsr
  /-- Raised by a register offset Rm = R15 (spec/44_arm_single_transfer.md R260, spec/45_arm_halfword_transfer.md
  R290). Safe. -/
  | rmR15InTransfer
  /-- Raised by write-back with Rn = Rd (spec/44_arm_single_transfer.md R262, spec/45_arm_halfword_transfer.md R292).
  Safe. -/
  | writebackRnEqRd
  /-- Raised by write-back to R15 (spec/44_arm_single_transfer.md R262, spec/45_arm_halfword_transfer.md R292; for LDC
  and STC log 23). Safe. -/
  | writebackR15
  /-- Raised by LDM, STM with Rn = R15 (spec/46_arm_block_transfer.md R313). Safe. -/
  | blockBaseR15
  /-- Raised by a user bank transfer with W=1 (spec/46_arm_block_transfer.md R318). Safe. -/
  | userBankWriteback
  /-- Raised by the block transfers with an empty list (spec/46_arm_block_transfer.md R320,
  spec/49_thumb_memory_branch.md R504). Safe. -/
  | emptyRegisterList
  /-- Raised by SWP, SWPB with R15 (spec/47_arm_swap_coproc.md R340). Safe. -/
  | r15InSwap
  /-- Raised by the step: an instruction stored to by one of the two before it (spec/20_memory.md R84). Safe. -/
  | staleFetch
  /-- Raised by the step: a banked register read right after an LDM of the user bank (spec/70_reset_and_hazards.md
  R620). Safe. -/
  | bankedReadAfterUserLdm
  deriving DecidableEq, Repr

/-- The outcome of an instruction or a step. -/
abbrev Result := Host.Outcome State Fault Refusal

/-- All flags clear: no reset value is stated (DESIGN CHOICE, log 2). -/
def Nzcv.zero : Nzcv := ⟨false, false, false, false⟩

/-- An SPSR with all bits clear: no reset value is stated (DESIGN CHOICE, log 3). -/
def Psr.zero : Psr := ⟨Nzcv.zero, false, false, false, 0b00000#5⟩

/-- All registers zero: no reset value is stated (DESIGN CHOICE, log 1). -/
def Regs.zero : Regs :=
  ⟨0, 0, 0, 0, 0, 0, 0, 0, 0, 0, 0, 0, 0, 0, 0, 0, 0, 0, 0, 0, 0, 0, 0, 0, 0, 0, 0, 0, 0, 0⟩

/-- The default platform: RAM everywhere, no aborts, no coprocessor, the switch off (spec/92_eei_decisions.md D3, D4,
D12; spec/10_state.md R46). -/
def Platform.default : Platform := ⟨[], [], [], false⟩

/-- The machine right after reset (spec/10_state.md R50, spec/70_reset_and_hazards.md R600). -/
def State.reset : State where
  regs := Regs.zero
  pc := Config.vectorBase
  cpsr := { flags := Nzcv.zero, i := true, f := true, t := false, mode := .svc }
  spsrs := ⟨Psr.zero, Psr.zero, Psr.zero, Psr.zero, Psr.zero⟩
  mem := []
  window := ⟨[], []⟩
  userLdm := false
  inputs := []
  platform := Platform.default
  deviceLog := []
  coprocLog := []
  free := 0

end Sys2Proof.Machine
end

