-- ==== Sys2Proof/Machine/Memory.lean ====
section
/-! DEFINITION. Memory as a list of bytes in canonical form, and its aligned little endian accesses (spec/20_memory.md
R60, R61). -/

namespace Sys2Proof.Machine

/-- What an address that is not listed reads as: 0 (the contents of RAM are the platform's; DESIGN CHOICE, log 4). -/
def Memory.unlisted : Byte := 0x00#8

/-- The byte at an address. -/
def Memory.get : Memory → Nat → Byte
  | [], _ => Memory.unlisted
  | (b, v) :: rest, a => if a = b then v else Memory.get rest a

/-- Memory with the byte at `a` set to `v`, in canonical form again. -/
def Memory.set : Memory → Nat → Byte → Memory
  | [], a, v => if v = Memory.unlisted then [] else [(a, v)]
  | (b, w) :: rest, a, v =>
    if a < b then (if v = Memory.unlisted then (b, w) :: rest else (a, v) :: (b, w) :: rest)
    else if a = b then (if v = Memory.unlisted then rest else (a, v) :: rest)
    else (b, w) :: Memory.set rest a v

/-- The canonical form from address `lo` up: addresses strictly rising and below 2^32, no byte listed that an unlisted
address reads as. -/
def Memory.wfFrom (lo : Nat) : Memory → Bool
  | [] => true
  | (a, v) :: rest => decide (lo ≤ a) && decide (a < 2 ^ 32) && (v != Memory.unlisted) && Memory.wfFrom (a + 1) rest

/-- The canonical form. -/
def Memory.wf (m : Memory) : Bool := Memory.wfFrom 0 m


/-- How many bytes an access of this width moves (R70). -/
def widthBytes : Width → Nat
  | .byte => 1
  | .half => 2
  | .word => 4

/-- `MemRead(addr, n)` for an aligned address, zero-extended to a word (R61). -/
def Memory.read (m : Memory) (addr : Word) : Width → Word
  | .byte => zext (m.get addr.toNat)
  | .half => zext (halfOfBytes (m.get addr.toNat) (m.get (addr.toNat + 1)))
  | .word => wordOfBytes (m.get addr.toNat) (m.get (addr.toNat + 1)) (m.get (addr.toNat + 2)) (m.get (addr.toNat + 3))

/-- `MemWrite(addr, n, v)` for an aligned address: the low bytes of `v` (R61). -/
def Memory.write (m : Memory) (addr : Word) (width : Width) (v : Word) : Memory :=
  match width with
  | .byte => m.set addr.toNat (byteOf v 0)
  | .half => (m.set addr.toNat (byteOf v 0)).set (addr.toNat + 1) (byteOf v 1)
  | .word =>
    (((m.set addr.toNat (byteOf v 0)).set (addr.toNat + 1) (byteOf v 1)).set (addr.toNat + 2) (byteOf v 2)).set
      (addr.toNat + 3) (byteOf v 3)

end Sys2Proof.Machine
end

