-- ==== Sys2Proof/Machine/Flags.lean ====
section
/-! DEFINITION. Every flag computation: AddWithCarry, the logical and arithmetic flag rules, the functions of the
sixteen data-processing opcodes and of the THUMB register operations, the multiply flags (spec/41_arm_alu.md R181 to
R205, spec/42_arm_multiply.md R221, R228, spec/48_thumb_register_ops.md R371 to R412). -/

namespace Sys2Proof.Machine

/-- A second operand and the shifter carry: `op2` and `sc` (R170). -/
structure Shifted where
  value : Word
  carry : Bool
  deriving DecidableEq, Repr

/-- A result and the flags it leaves when flags are set. -/
structure AluResult where
  value : Word
  flags : Nzcv
  deriving DecidableEq, Repr

/-- `usum` of R181. -/
def usum (a b : Word) (cin : Bool) : Nat := a.toNat + b.toNat + cin.toNat

/-- `ssum` of R181. -/
def ssum (a b : Word) (cin : Bool) : Int := a.toInt + b.toInt + (cin.toNat : Int)

/-- `result` of `AddWithCarry` (R181). -/
def addResult (a b : Word) (cin : Bool) : Word := BitVec.ofNat 32 (usum a b cin)

/-- `carry` of `AddWithCarry` (R181). -/
def addCarry (a b : Word) (cin : Bool) : Bool := decide (2 ^ 32 ≤ usum a b cin)

/-- `ovf` of `AddWithCarry` (R181). -/
def addOverflow (a b : Word) (cin : Bool) : Bool := decide (ssum a b cin ≠ (addResult a b cin).toInt)

/-- N and Z of a result, C and V as given (R182, R183, R371). -/
def resultFlags (r : Word) (c v : Bool) : Nzcv := ⟨r.getLsbD 31, r == 0#32, c, v⟩

/-- A result with the flags of `AddWithCarry(a, b, cin)`: SetNZCV (R183, R371). -/
def arith (a b : Word) (cin : Bool) : AluResult :=
  ⟨addResult a b cin, resultFlags (addResult a b cin) (addCarry a b cin) (addOverflow a b cin)⟩

/-- A result with the flags of a logical operation: C from the shifter, V kept (R182). -/
def logical (old : Nzcv) (r : Word) (sc : Bool) : AluResult := ⟨r, resultFlags r sc old.v⟩

/-- `f_Op` of R180: from the flags before, the first operand and the shifted second one. -/
abbrev AluFn := Nzcv → Word → Shifted → AluResult

/-- AND (R190), TST (R198). -/
def aluAnd : AluFn := fun p a o => logical p (a &&& o.value) o.carry
/-- EOR (R191), TEQ (R199). -/
def aluEor : AluFn := fun p a o => logical p (a ^^^ o.value) o.carry
/-- SUB (R192), CMP (R200). -/
def aluSub : AluFn := fun _ a o => arith a (~~~o.value) true
/-- RSB (R193). -/
def aluRsb : AluFn := fun _ a o => arith o.value (~~~a) true
/-- ADD (R194), CMN (R201). -/
def aluAdd : AluFn := fun _ a o => arith a o.value false
/-- ADC (R195). -/
def aluAdc : AluFn := fun p a o => arith a o.value p.c
/-- SBC (R196). -/
def aluSbc : AluFn := fun p a o => arith a (~~~o.value) p.c
/-- RSC (R197). -/
def aluRsc : AluFn := fun p a o => arith o.value (~~~a) p.c
/-- ORR (R202). -/
def aluOrr : AluFn := fun p a o => logical p (a ||| o.value) o.carry
/-- MOV (R203). -/
def aluMov : AluFn := fun p _ o => logical p o.value o.carry
/-- BIC (R204). -/
def aluBic : AluFn := fun p a o => logical p (a &&& ~~~o.value) o.carry
/-- MVN (R205). -/
def aluMvn : AluFn := fun p _ o => logical p (~~~o.value) o.carry

/-- The C flag that a 32bit multiply leaves: `any` (R221), bit 0 of a free word. -/
def freeC (free : Word) : Bool := free.getLsbD 0

/-- The V flag that a long multiply leaves: `any` (R228), bit 1 of a free word. -/
def freeV (free : Word) : Bool := free.getLsbD 1

/-- Flags of MUL, MLA and THUMB MUL: N and Z of the result, C `any`, V kept (R221, R410). -/
def mulFlags (old : Nzcv) (r free : Word) : Nzcv := resultFlags r (freeC free) old.v

/-- Flags of the long multiplies: N and Z of the 64bit result, C and V `any` (R228). -/
def longMulFlags (r : BitVec 64) (free : Word) : Nzcv := ⟨r.getLsbD 63, r == 0#64, freeC free, freeV free⟩

/-- `unsigned(a) * unsigned(b)`, 64 bits (R229). -/
def umul64 (a b : Word) : BitVec 64 := BitVec.ofNat 64 (a.toNat * b.toNat)

/-- `signed(a) * signed(b)` mod 2^64 (R231). -/
def smul64 (a b : Word) : BitVec 64 := BitVec.ofInt 64 (a.toInt * b.toInt)

end Sys2Proof.Machine
end

