-- ==== Sys2Proof/Machine/Operands.lean ====
section
/-! DEFINITION. Every operand form: the shifts and the three forms of Op2 (spec/41_arm_alu.md R170 to R174,
spec/48_thumb_register_ops.md R375, R396), the address offsets and the alignments and rotations of loads and stores
(spec/20_memory.md R64 to R67, spec/44_arm_single_transfer.md R260). -/

namespace Sys2Proof.Machine

/-- The four shifts by an amount 1..31 (R171). -/
def shiftBasic (type : ShiftType) (m : Word) (k : Nat) : Shifted :=
  match type with
  | .lsl => ⟨m <<< k, m.getLsbD (32 - k)⟩
  | .lsr => ⟨m >>> k, m.getLsbD (k - 1)⟩
  | .asr => ⟨m.sshiftRight k, m.getLsbD (k - 1)⟩
  | .ror => ⟨ror m k, m.getLsbD (k - 1)⟩

/-- 32 copies of bit 31. -/
def signFill (m : Word) : Word := if m.getLsbD 31 then 0xFFFFFFFF#32 else 0x00000000#32

/-- Shift by a 5bit immediate; amount 0 is special (R172). -/
def shiftImm (cin : Bool) (type : ShiftType) (m : Word) (amount : BitVec 5) : Shifted :=
  if amount = 0#5 then
    match type with
    | .lsl => ⟨m, cin⟩
    | .lsr => ⟨0x00000000#32, m.getLsbD 31⟩
    | .asr => ⟨signFill m, m.getLsbD 31⟩
    | .ror => ⟨placeBit 32 31 cin ||| m >>> 1, m.getLsbD 0⟩
  else shiftBasic type m amount.toNat

/-- Shift by the low byte of a register: 0 changes nothing, 1..31 as R171, 32 and up by the table of R173. -/
def shiftReg (cin : Bool) (type : ShiftType) (m : Word) (amount : Byte) : Shifted :=
  let k := amount.toNat
  if k = 0 then ⟨m, cin⟩
  else if k < 32 then shiftBasic type m k
  else
    match type with
    | .lsl => if k = 32 then ⟨0x00000000#32, m.getLsbD 0⟩ else ⟨0x00000000#32, false⟩
    | .lsr => if k = 32 then ⟨0x00000000#32, m.getLsbD 31⟩ else ⟨0x00000000#32, false⟩
    | .asr => ⟨signFill m, m.getLsbD 31⟩
    | .ror => if k % 32 = 0 then ⟨m, m.getLsbD 31⟩ else shiftBasic .ror m (k % 32)

/-- The value of a rotated immediate (spec/30_encoding.md R104). -/
def Op2Imm.value (o : Op2Imm) : Word := ror (zext o.imm) (2 * o.rot.toNat)

/-- Op2, immediate (R174). -/
def op2Imm (cin : Bool) (o : Op2Imm) : Shifted :=
  ⟨Op2Imm.value o, if o.rot = 0#4 then cin else (Op2Imm.value o).getLsbD 31⟩

/-- A second operand whose carry is the flag as it was (THUMB formats 2 to 4). -/
def plain (cin : Bool) (v : Word) : Shifted := ⟨v, cin⟩

/-- `base` plus or minus `offset` by the U bit (R261). -/
def indexed (up : Bool) (base offset : Word) : Word := if up then base + offset else base - offset

/-- The loads (R65, R66, R67, R70). -/
inductive LoadKind where
  | word | byte | half | signedByte | signedHalf
  deriving DecidableEq, Repr

/-- The stores (R64, R70). -/
inductive StoreKind where
  | word | byte | half
  deriving DecidableEq, Repr

/-- The width a load reads; LDRSH of an odd address reads a byte (R67, R70). -/
def LoadKind.width (k : LoadKind) (ea : Word) : Width :=
  match k with
  | .word => .word
  | .byte => .byte
  | .half => .half
  | .signedByte => .byte
  | .signedHalf => if ea.getLsbD 0 then .byte else .half

/-- The address a load sends to memory (R65, R66, R67). -/
def LoadKind.address (k : LoadKind) (ea : Word) : Word :=
  match k with
  | .word => alignWord ea
  | .half => alignHalf ea
  | .byte | .signedByte | .signedHalf => ea

/-- What a load delivers, from the zero-extended value read: rotations and extensions (R65, R66, R67, R70). -/
def LoadKind.deliver (k : LoadKind) (ea raw : Word) : Word :=
  match k with
  | .word => ror raw (8 * (ea.extractLsb' 0 2).toNat)
  | .byte => raw
  | .half => if ea.getLsbD 0 then ror raw 8 else raw
  | .signedByte => sext (raw.extractLsb' 0 8)
  | .signedHalf => if ea.getLsbD 0 then sext (raw.extractLsb' 0 8) else sext (raw.extractLsb' 0 16)

/-- The width a store writes (R70). -/
def StoreKind.width : StoreKind → Width
  | .word => .word
  | .byte => .byte
  | .half => .half

/-- The address a store sends to memory: forced alignment (R64). -/
def StoreKind.address (k : StoreKind) (ea : Word) : Word :=
  match k with
  | .word => alignWord ea
  | .half => alignHalf ea
  | .byte => ea

/-- The registers R0..R15 in ascending order. -/
def allRegs : List Reg := [0, 1, 2, 3, 4, 5, 6, 7, 8, 9, 10, 11, 12, 13, 14, 15]

/-- The listed registers, lowest first: bit i of the list is Ri (spec/30_encoding.md R104). -/
def listed (list : BitVec 16) : List Reg := allRegs.filter fun r => list.getLsbD r.toNat

end Sys2Proof.Machine
end

