-- ==== Sys2Proof/Machine/Psr.lean ====
section
/-! DEFINITION. The status registers: mode bits, the layout of a PSR word, the condition field (spec/10_state.md R33 to
R47). -/

namespace Sys2Proof.Machine

/-- M4-M0 of a mode (R38). -/
def Mode.bits : Mode → BitVec 5
  | .usr => 0b10000#5
  | .fiq => 0b10001#5
  | .irq => 0b10010#5
  | .svc => 0b10011#5
  | .abt => 0b10111#5
  | .und => 0b11011#5
  | .sys => 0b11111#5

/-- The mode that M4-M0 names, if it is one of the seven (R38, R39). -/
def Mode.ofBits (m : BitVec 5) : Option Mode :=
  match m.toNat with
  | 16 => some .usr
  | 17 => some .fiq
  | 18 => some .irq
  | 19 => some .svc
  | 23 => some .abt
  | 27 => some .und
  | 31 => some .sys
  | _ => none

/-- Every mode but User is privileged (R38). -/
def Mode.privileged (m : Mode) : Bool := m != .usr

/-- Bits 31-28 of a word as flags (R33). -/
def Nzcv.ofWord (w : Word) : Nzcv := ⟨w.getLsbD 31, w.getLsbD 30, w.getLsbD 29, w.getLsbD 28⟩

/-- The flags at bits 31-28 (R33). -/
def Nzcv.toWord (p : Nzcv) : Word := placeBit 32 31 p.n ||| placeBit 32 30 p.z ||| placeBit 32 29 p.c ||| placeBit 32 28 p.v

/-- A PSR word: flags, `reserved` in bits 27-8 (R36), I, F, T, mode bits (R33). -/
def psrWord (flags : Nzcv) (reserved : BitVec 20) (i f t : Bool) (m : BitVec 5) : Word :=
  flags.toWord ||| place 32 8 reserved ||| placeBit 32 7 i ||| placeBit 32 6 f ||| placeBit 32 5 t ||| place 32 0 m

/-- The CPSR as a word (R33). -/
def Cpsr.toWord (p : Cpsr) (reserved : BitVec 20) : Word := psrWord p.flags reserved p.i p.f p.t p.mode.bits

/-- An SPSR as a word (R33). -/
def Psr.toWord (p : Psr) (reserved : BitVec 20) : Word := psrWord p.flags reserved p.i p.f p.t p.m

/-- The twelve bits of a word that are state in an SPSR (R33, R36). -/
def Psr.ofWord (w : Word) : Psr :=
  ⟨Nzcv.ofWord w, w.getLsbD 7, w.getLsbD 6, w.getLsbD 5, w.extractLsb' 0 5⟩

/-- The copy of the CPSR that exception entry saves (R40; spec/60_exceptions.md R545). -/
def Cpsr.saved (p : Cpsr) : Psr := ⟨p.flags, p.i, p.f, p.t, p.mode.bits⟩

/-- `CondPassed(cond)` (R45). -/
def condPassed (c : Cond) (p : Nzcv) : Bool :=
  match c with
  | .eq => p.z
  | .ne => !p.z
  | .cs => p.c
  | .cc => !p.c
  | .mi => p.n
  | .pl => !p.n
  | .vs => p.v
  | .vc => !p.v
  | .hi => p.c && !p.z
  | .ls => !p.c || p.z
  | .ge => p.n == p.v
  | .lt => p.n != p.v
  | .gt => !p.z && (p.n == p.v)
  | .le => p.z || (p.n != p.v)
  | .al => true

/-- The SPSR of a mode; User and System have none (R32). -/
def Spsrs.get? (s : Spsrs) : Mode → Option Psr
  | .fiq => some s.fiq
  | .svc => some s.svc
  | .abt => some s.abt
  | .irq => some s.irq
  | .und => some s.und
  | .usr | .sys => none

/-- The SPSR of a mode written; User and System have none to write (R32). -/
def Spsrs.set (s : Spsrs) (m : Mode) (p : Psr) : Spsrs :=
  match m with
  | .fiq => { s with fiq := p }
  | .svc => { s with svc := p }
  | .abt => { s with abt := p }
  | .irq => { s with irq := p }
  | .und => { s with und := p }
  | .usr | .sys => s

end Sys2Proof.Machine
end

