-- ==== Sys2Proof/Machine/Registers.lean ====
section
/-! DEFINITION. The general registers: which physical register an index names in a mode, and the one read and the one
write of a register (spec/10_state.md R20 to R30). -/

namespace Sys2Proof.Machine

/-- The value of a physical register. -/
def Regs.get (r : Regs) : GReg → Word
  | .r0 => r.r0
  | .r1 => r.r1
  | .r2 => r.r2
  | .r3 => r.r3
  | .r4 => r.r4
  | .r5 => r.r5
  | .r6 => r.r6
  | .r7 => r.r7
  | .r8 => r.r8
  | .r9 => r.r9
  | .r10 => r.r10
  | .r11 => r.r11
  | .r12 => r.r12
  | .r13 => r.r13
  | .r14 => r.r14
  | .r8Fiq => r.r8Fiq
  | .r9Fiq => r.r9Fiq
  | .r10Fiq => r.r10Fiq
  | .r11Fiq => r.r11Fiq
  | .r12Fiq => r.r12Fiq
  | .r13Fiq => r.r13Fiq
  | .r14Fiq => r.r14Fiq
  | .r13Svc => r.r13Svc
  | .r14Svc => r.r14Svc
  | .r13Abt => r.r13Abt
  | .r14Abt => r.r14Abt
  | .r13Irq => r.r13Irq
  | .r14Irq => r.r14Irq
  | .r13Und => r.r13Und
  | .r14Und => r.r14Und

/-- A physical register written. -/
def Regs.set (r : Regs) (g : GReg) (v : Word) : Regs :=
  match g with
  | .r0 => { r with r0 := v }
  | .r1 => { r with r1 := v }
  | .r2 => { r with r2 := v }
  | .r3 => { r with r3 := v }
  | .r4 => { r with r4 := v }
  | .r5 => { r with r5 := v }
  | .r6 => { r with r6 := v }
  | .r7 => { r with r7 := v }
  | .r8 => { r with r8 := v }
  | .r9 => { r with r9 := v }
  | .r10 => { r with r10 := v }
  | .r11 => { r with r11 := v }
  | .r12 => { r with r12 := v }
  | .r13 => { r with r13 := v }
  | .r14 => { r with r14 := v }
  | .r8Fiq => { r with r8Fiq := v }
  | .r9Fiq => { r with r9Fiq := v }
  | .r10Fiq => { r with r10Fiq := v }
  | .r11Fiq => { r with r11Fiq := v }
  | .r12Fiq => { r with r12Fiq := v }
  | .r13Fiq => { r with r13Fiq := v }
  | .r14Fiq => { r with r14Fiq := v }
  | .r13Svc => { r with r13Svc := v }
  | .r14Svc => { r with r14Svc := v }
  | .r13Abt => { r with r13Abt := v }
  | .r14Abt => { r with r14Abt := v }
  | .r13Irq => { r with r13Irq := v }
  | .r14Irq => { r with r14Irq := v }
  | .r13Und => { r with r13Und := v }
  | .r14Und => { r with r14Und := v }

/-- R13 of a mode (R22). -/
def stackReg : Mode → GReg
  | .usr | .sys => .r13
  | .fiq => .r13Fiq
  | .irq => .r13Irq
  | .svc => .r13Svc
  | .abt => .r13Abt
  | .und => .r13Und

/-- R14 of a mode (R22). -/
def linkReg : Mode → GReg
  | .usr | .sys => .r14
  | .fiq => .r14Fiq
  | .irq => .r14Irq
  | .svc => .r14Svc
  | .abt => .r14Abt
  | .und => .r14Und

/-- One of R8..R12: FIQ mode has copies of its own (R22). -/
def fiqBanked (m : Mode) (shared fiq : GReg) : GReg := if m = .fiq then fiq else shared

/-- Register selection: the physical register that `x[i]` names in a mode; none for R15 (R22). -/
def physical (m : Mode) (i : Reg) : Option GReg :=
  match i.toNat with
  | 0 => some .r0
  | 1 => some .r1
  | 2 => some .r2
  | 3 => some .r3
  | 4 => some .r4
  | 5 => some .r5
  | 6 => some .r6
  | 7 => some .r7
  | 8 => some (fiqBanked m .r8 .r8Fiq)
  | 9 => some (fiqBanked m .r9 .r9Fiq)
  | 10 => some (fiqBanked m .r10 .r10Fiq)
  | 11 => some (fiqBanked m .r11 .r11Fiq)
  | 12 => some (fiqBanked m .r12 .r12Fiq)
  | 13 => some (stackReg m)
  | 14 => some (linkReg m)
  | _ => none

/-- `x[i]` in the bank of a mode; R15 reads pc + `ahead` (R22, R28). -/
def State.regIn (s : State) (m : Mode) (i : Reg) (ahead : Word) : Word :=
  match physical m i with
  | some g => s.regs.get g
  | none => s.pc + ahead

/-- `x[i] <- v` in the bank of a mode. R15 is written by `State.branchTo` only (R10): here it is left alone. -/
def State.setRegIn (s : State) (m : Mode) (i : Reg) (v : Word) : State :=
  match physical m i with
  | some g => { s with regs := s.regs.set g v }
  | none => s

/-- `x[i]` in the current mode; R15 reads pc + `ahead` (R22, R28). -/
def State.reg (s : State) (i : Reg) (ahead : Word) : Word := s.regIn s.cpsr.mode i ahead

/-- `x[i] <- v` in the current mode (R22). -/
def State.setReg (s : State) (i : Reg) (v : Word) : State := s.setRegIn s.cpsr.mode i v

/-- The registers that are banked in a mode: R13 and R14 in the exception modes, R8 to R12 in FIQ mode (R38). -/
def bankedIn (m : Mode) (i : Reg) : Bool :=
  match m with
  | .usr | .sys => false
  | .fiq => 8 ≤ i.toNat && i.toNat ≤ 14
  | .irq | .svc | .abt | .und => i.toNat == 13 || i.toNat == 14

end Sys2Proof.Machine
end

