-- ==== Sys2Proof/Machine/Ops.lean ====
section
/-! DEFINITION. The operations that the meanings share: moving the PC, free values, accesses to memory, taking an
exception and returning from one, data processing, multiplies, PSR transfers, single, block and swap transfers,
coprocessors. -/

namespace Sys2Proof.Machine

/-! ## Program counter, flags, free values -/

/-- The next instruction in sequence, `size` bytes on (spec/10_state.md R27, R30). -/
def State.advance (s : State) (size : Word) : State := { s with pc := s.pc + size }

/-- `pc <- target`; a write to the PC empties the stale-fetch window (spec/20_memory.md R84). -/
def State.branchTo (s : State) (target : Word) : State := { s with pc := target, window := ⟨[], []⟩ }

/-- The flags written. -/
def State.setFlags (s : State) (f : Nzcv) : State := { s with cpsr := { s.cpsr with flags := f } }

/-- The free value that is next: `any` of spec/00_scope.md R10 (log 5). -/
def State.freeWord (s : State) : Word := Config.freeWord s.free

/-- One free value used up. -/
def State.drawn (s : State) : State := { s with free := s.free + 1 }

/-- This instruction is an LDM of the user bank: the mark that the next instruction finds
(spec/70_reset_and_hazards.md R620). -/
def State.markUserLdm (s : State) : State := { s with userLdm := true }

/-- A refusal when a restriction is violated, else go on. -/
def refuseIf (b : Bool) (r : Refusal) (k : Result) : Result := if b then .refused r else k

/-- An ARM instruction under its condition: when it fails, nothing but `pc <- pc + 4` (spec/10_state.md R47). -/
def conditional (c : Cond) (s : State) (act : State → Result) : Result :=
  if condPassed c s.cpsr.flags then act s else .next (s.advance 4)

/-- A value written to R15, aligned by the state `thumb` (spec/10_state.md R29). -/
def alignPc (thumb : Bool) (v : Word) : Word := if thumb then alignHalf v else alignWord v

/-- BX: T and the PC from a value (spec/40_arm_branch.md R154, spec/48_thumb_register_ops.md R428). -/
def State.exchange (s : State) (v : Word) : State :=
  { s with cpsr := { s.cpsr with t := v.getLsbD 0 } }.branchTo (alignPc (v.getLsbD 0) v)

/-! ## Memory accesses -/

/-- An address lies in `first`..`last`. -/
def inRange (first last addr : Word) : Bool := decide (first.toNat ≤ addr.toNat) && decide (addr.toNat ≤ last.toNat)

/-- `Platform.aborts(addr, n, kind)`, the privilege of the access beside it (spec/20_memory.md R77). -/
def State.aborts (s : State) (kind : AccessKind) (user : Bool) (addr : Word) (width : Width) : Bool :=
  s.platform.aborts.any fun r => r.kind == kind && r.width == width && r.user == user && inRange r.first r.last addr

/-- The address is a device's (spec/20_memory.md R75). -/
def State.isDevice (s : State) (addr : Word) : Bool := s.platform.devices.any fun r => inRange r.first r.last addr

/-- The low 8n bits of a value (spec/00_scope.md R10). -/
def truncateTo (width : Width) (v : Word) : Word :=
  match width with
  | .byte => zext (v.extractLsb' 0 8)
  | .half => zext (v.extractLsb' 0 16)
  | .word => v

/-- `MemRead` of an address that does not abort: RAM, or a device, whose answer is not the core's (R75; log 8). -/
def State.take (s : State) (addr : Word) (width : Width) : Word × State :=
  if s.isDevice addr then
    (truncateTo width (Config.deviceRead s.deviceLog addr width),
      { s with deviceLog := .read addr width :: s.deviceLog })
  else (s.mem.read addr width, s)

/-- `MemWrite` of an address that does not abort, noted in the stale-fetch window (R75, R84). -/
def State.put (s : State) (addr : Word) (width : Width) (v : Word) : State :=
  let window := { s.window with last := ⟨addr, widthBytes width⟩ :: s.window.last }
  if s.isDevice addr then
    { s with deviceLog := .write addr width (truncateTo width v) :: s.deviceLog, window := window }
  else { s with mem := s.mem.write addr width v, window := window }

/-- A data read at `addr`: none when the memory system, asked with `ea`, aborts it (spec/20_memory.md R77,
spec/44_arm_single_transfer.md R264). -/
def State.busRead (s : State) (user : Bool) (ea addr : Word) (width : Width) : Option (Word × State) :=
  if s.aborts .read user ea width then none else some (s.take addr width)

/-- A data write at `addr`: none when the memory system, asked with `ea`, aborts it (spec/20_memory.md R77,
spec/44_arm_single_transfer.md R264). -/
def State.busWrite (s : State) (user : Bool) (ea addr : Word) (width : Width) (v : Word) : Option State :=
  if s.aborts .write user ea width then none else some (s.put addr width v)

/-- The current mode is User: its data accesses and fetches are not privileged (spec/60_exceptions.md R575). -/
def State.userMode (s : State) : Bool := s.cpsr.mode == .usr

/-! ## Exceptions -/

/-- The seven exceptions (spec/60_exceptions.md R540). -/
inductive Exception where
  | reset | undefined | softwareInterrupt | prefetchAbort | dataAbort | irq | fiq
  deriving DecidableEq, Repr

/-- The mode on entry (R540). -/
def Exception.mode : Exception → Mode
  | .reset => .svc
  | .undefined => .und
  | .softwareInterrupt => .svc
  | .prefetchAbort => .abt
  | .dataAbort => .abt
  | .irq => .irq
  | .fiq => .fiq

/-- The vector offset (R540). -/
def Exception.offset : Exception → Word
  | .reset => 0x00#32
  | .undefined => 0x04#32
  | .softwareInterrupt => 0x08#32
  | .prefetchAbort => 0x0C#32
  | .dataAbort => 0x10#32
  | .irq => 0x18#32
  | .fiq => 0x1C#32

/-- F is set by Reset and FIQ (R540, R545). -/
def Exception.setsF : Exception → Bool
  | .reset | .fiq => true
  | .undefined | .softwareInterrupt | .prefetchAbort | .dataAbort | .irq => false

/-- `ret(E)` (R546): what R14 of the new mode receives. Reset's is overwritten by `State.takeReset` (R600). -/
def State.returnAddress (s : State) : Exception → Word
  | .softwareInterrupt | .undefined => s.pc + (if s.cpsr.t then 2 else 4)
  | .prefetchAbort | .irq | .fiq | .reset => s.pc + 4
  | .dataAbort => s.pc + 8

/-- Exception entry, for all seven exceptions (R545, R547). -/
def State.enter (e : Exception) (s : State) : State :=
  State.branchTo
    { s with
      regs := s.regs.set (linkReg e.mode) (s.returnAddress e)
      spsrs := s.spsrs.set e.mode s.cpsr.saved
      cpsr := { s.cpsr with i := true, f := s.cpsr.f || e.setsF, t := false, mode := e.mode } }
    (Config.vectorBase + e.offset)

/-- Everything that reset leaves unspecified, redrawn from the free values: the registers, the SPSRs, the flags
(spec/70_reset_and_hazards.md R600; log 13). -/
def State.forget (s : State) : State :=
  let w (k : Nat) : Word := Config.freeWord (s.free + k)
  { s with
    regs := ⟨w 0, w 1, w 2, w 3, w 4, w 5, w 6, w 7, w 8, w 9, w 10, w 11, w 12, w 13, w 14, w 15, w 16, w 17, w 18,
      w 19, w 20, w 21, w 22, w 23, w 24, w 25, w 26, w 27, w 28, w 29⟩
    spsrs := ⟨Psr.ofWord (w 30), Psr.ofWord (w 31), Psr.ofWord (w 32), Psr.ofWord (w 33), Psr.ofWord (w 34)⟩
    cpsr := { s.cpsr with flags := Nzcv.ofWord (w 35) }
    free := s.free + 36 }

/-- Reset applied to a running machine: entry, and no value for what the spec leaves without one (R545, R600). It clears
the mark of R620, of which the spec says nothing at reset (DESIGN CHOICE, log 13). -/
def State.takeReset (s : State) : State := { (s.enter .reset).forget with userLdm := false }

/-- The return from an exception: CPSR <- SPSR of the current mode, PC aligned by the restored T
(spec/60_exceptions.md R570, spec/41_arm_alu.md R184). -/
def State.exceptionReturn (s : State) (target : Word) : Result :=
  match s.spsrs.get? s.cpsr.mode with
  | none => .refused .noSpsr
  | some p =>
    match Mode.ofBits p.m with
    | none => .refused .illegalMode
    | some m => .next
      (State.branchTo { s with cpsr := { flags := p.flags, i := p.i, f := p.f, t := p.t, mode := m } } (alignPc p.t target))

/-! ## Data processing (spec/41_arm_alu.md) -/

/-- The end of a result-writing data-processing instruction: Rd, the flags with S=1, and R15 as Rd (R180, R184,
R185). -/
def State.aluWrite (s : State) (sf : Bool) (rd : Reg) (r : AluResult) : Result :=
  if rd = 15#4 then
    if sf then s.exceptionReturn r.value else .next (s.branchTo (alignWord r.value))
  else
    let s' := s.setReg rd r.value
    .next ((if sf then s'.setFlags r.flags else s').advance 4)

/-- Op2 shifted by an immediate (R172); R15 reads pc+8 (R175). -/
def State.op2ShImm (s : State) (o : Op2ShImm) : Shifted := shiftImm s.cpsr.flags.c o.type (s.reg o.rm 8) o.amount

/-- Op2 shifted by a register (R173); R15 reads pc+12 (R175). -/
def State.op2ShReg (s : State) (o : Op2ShReg) : Shifted :=
  shiftReg s.cpsr.flags.c o.type (s.reg o.rm 12) ((s.reg o.rs 12).extractLsb' 0 8)

/-- A three-operand opcode with an immediate. -/
def aluImm (f : AluFn) (c : Cond) (sf : Bool) (rn rd : Reg) (o : Op2Imm) (s : State) : Result :=
  conditional c s fun s => s.aluWrite sf rd (f s.cpsr.flags (s.reg rn 8) (op2Imm s.cpsr.flags.c o))

/-- A three-operand opcode with an operand shifted by an immediate. -/
def aluShImm (f : AluFn) (c : Cond) (sf : Bool) (rn rd : Reg) (o : Op2ShImm) (s : State) : Result :=
  conditional c s fun s => s.aluWrite sf rd (f s.cpsr.flags (s.reg rn 8) (s.op2ShImm o))

/-- A three-operand opcode with an operand shifted by a register; Rs = R15 is refused (R173). -/
def aluShReg (f : AluFn) (c : Cond) (sf : Bool) (rn rd : Reg) (o : Op2ShReg) (s : State) : Result :=
  conditional c s fun s => refuseIf (o.rs == 15#4) .shiftRegisterR15
    (s.aluWrite sf rd (f s.cpsr.flags (s.reg rn 12) (s.op2ShReg o)))

/-- MOV, MVN with an immediate: Rn is not read (R203, R205). -/
def moveImm (f : AluFn) (c : Cond) (sf : Bool) (rd : Reg) (o : Op2Imm) (s : State) : Result :=
  conditional c s fun s => s.aluWrite sf rd (f s.cpsr.flags 0 (op2Imm s.cpsr.flags.c o))

/-- MOV, MVN with an operand shifted by an immediate. -/
def moveShImm (f : AluFn) (c : Cond) (sf : Bool) (rd : Reg) (o : Op2ShImm) (s : State) : Result :=
  conditional c s fun s => s.aluWrite sf rd (f s.cpsr.flags 0 (s.op2ShImm o))

/-- MOV, MVN with an operand shifted by a register; Rs = R15 is refused (R173). -/
def moveShReg (f : AluFn) (c : Cond) (sf : Bool) (rd : Reg) (o : Op2ShReg) (s : State) : Result :=
  conditional c s fun s => refuseIf (o.rs == 15#4) .shiftRegisterR15
    (s.aluWrite sf rd (f s.cpsr.flags 0 (s.op2ShReg o)))

/-- TST, TEQ, CMP, CMN with an immediate: the flags and no register (R180, R186). -/
def compareImm (f : AluFn) (c : Cond) (rn : Reg) (o : Op2Imm) (s : State) : Result :=
  conditional c s fun s => .next
    ((s.setFlags (f s.cpsr.flags (s.reg rn 8) (op2Imm s.cpsr.flags.c o)).flags).advance 4)

/-- TST, TEQ, CMP, CMN with an operand shifted by an immediate. -/
def compareShImm (f : AluFn) (c : Cond) (rn : Reg) (o : Op2ShImm) (s : State) : Result :=
  conditional c s fun s => .next ((s.setFlags (f s.cpsr.flags (s.reg rn 8) (s.op2ShImm o)).flags).advance 4)

/-- TST, TEQ, CMP, CMN with an operand shifted by a register; Rs = R15 is refused (R173). -/
def compareShReg (f : AluFn) (c : Cond) (rn : Reg) (o : Op2ShReg) (s : State) : Result :=
  conditional c s fun s => refuseIf (o.rs == 15#4) .shiftRegisterR15
    (.next ((s.setFlags (f s.cpsr.flags (s.reg rn 12) (s.op2ShReg o)).flags).advance 4))

/-! ## Multiplies (spec/42_arm_multiply.md) -/

/-- The end of MUL, MLA: Rd, and with S=1 the flags, C being a free value (R221). -/
def State.mulWrite (s : State) (sf : Bool) (rd : Reg) (r : Word) : Result :=
  let s' := s.setReg rd r
  .next ((if sf then (s'.setFlags (mulFlags s.cpsr.flags r s.freeWord)).drawn else s').advance 4)

/-- MUL and MLA: Rd is not Rm and no register is R15 (R220); `acc` is the value added. -/
def multiply (c : Cond) (sf : Bool) (rd rs rm : Reg) (others : List Reg) (acc : State → Word) (s : State) : Result :=
  conditional c s fun s =>
    refuseIf (rd == 15#4 || rs == 15#4 || rm == 15#4 || others.any (· == 15#4)) .r15InMultiply
      (refuseIf (rd == rm) .mulRdEqRm (s.mulWrite sf rd (s.reg rm 8 * s.reg rs 8 + acc s)))

/-- A long multiply: RdHi, RdLo, Rm are three registers and none is R15 (R227); flags by R228. -/
def longMultiply (product : Word → Word → BitVec 64) (accumulate : Bool) (c : Cond) (sf : Bool)
    (rdHi rdLo rs rm : Reg) (s : State) : Result :=
  conditional c s fun s =>
    refuseIf (rdHi == 15#4 || rdLo == 15#4 || rs == 15#4 || rm == 15#4) .r15InMultiply
      (refuseIf (rdHi == rdLo || rdHi == rm || rdLo == rm) .longMultiplyEqualRegs
        (let acc : BitVec 64 := if accumulate then s.reg rdHi 8 ++ s.reg rdLo 8 else 0
         let r := product (s.reg rm 8) (s.reg rs 8) + acc
         let s' := (s.setReg rdLo (r.extractLsb' 0 32)).setReg rdHi (r.extractLsb' 32 32)
         .next ((if sf then (s'.setFlags (longMulFlags r s.freeWord)).drawn else s').advance 4)))

/-! ## PSR transfers (spec/43_arm_psr.md) -/

/-- MRS (R240): bits 27-8 of the value are free (spec/10_state.md R36). -/
def State.mrs (s : State) (spsr : Bool) (rd : Reg) : Result :=
  let reserved : BitVec 20 := s.freeWord.extractLsb' 0 20
  if spsr then
    match s.spsrs.get? s.cpsr.mode with
    | none => .refused .noSpsr
    | some p => .next (((s.setReg rd (p.toWord reserved)).drawn).advance 4)
  else .next (((s.setReg rd (s.cpsr.toWord reserved)).drawn).advance 4)

/-- The bytes of an SPSR that a field mask selects, taken from a word; bits 27-8 are not state (R243, R244, R247). -/
def Psr.merge (p : Psr) (m : FieldMask) (w : Word) : Psr :=
  let new := Psr.ofWord w
  { flags := if m.f then new.flags else p.flags
    i := if m.c then new.i else p.i
    f := if m.c then new.f else p.f
    t := if m.c then new.t else p.t
    m := if m.c then new.m else p.m }

/-- MSR to the CPSR (R243): the control field only in a privileged mode (R245), T not changed (R246), the mode one of
the seven (spec/10_state.md R39). -/
def State.msrCpsr (s : State) (m : FieldMask) (w : Word) : Result :=
  let new := s.cpsr.saved.merge { m with c := m.c && s.cpsr.mode.privileged } w
  refuseIf (new.t != s.cpsr.t) .tChangedByMsr
    (match Mode.ofBits new.m with
     | none => .refused .illegalMode
     | some mode => .next
       (State.advance { s with cpsr := { flags := new.flags, i := new.i, f := new.f, t := new.t, mode := mode } } 4))

/-- MSR to the SPSR of the current mode (R243, R248). -/
def State.msrSpsr (s : State) (m : FieldMask) (w : Word) : Result :=
  match s.spsrs.get? s.cpsr.mode with
  | none => .refused .noSpsr
  | some p => .next (State.advance { s with spsrs := s.spsrs.set s.cpsr.mode (p.merge m w) } 4)

/-- MSR (R241, R242, R243). -/
def State.msr (s : State) (spsr : Bool) (m : FieldMask) (w : Word) : Result :=
  if spsr then s.msrSpsr m w else s.msrCpsr m w

/-! ## Single transfers (spec/44_arm_single_transfer.md, 45_arm_halfword_transfer.md, 49_thumb_memory_branch.md) -/

/-- The address of a transfer and its write-back: `ea`, and `idx` when the base is written back (R261, R291). -/
structure Addressing where
  ea : Word
  writeBack : Option Word
  deriving DecidableEq, Repr

/-- P=1: `ea` = `idx`, written back with W=1 (R261). -/
def preIndexed (up wb : Bool) (base offset : Word) : Addressing :=
  ⟨indexed up base offset, if wb then some (indexed up base offset) else none⟩

/-- P=0: `ea` = base, always written back (R261). -/
def postIndexed (up : Bool) (base offset : Word) : Addressing := ⟨base, some (indexed up base offset)⟩

/-- `x[Rn] <- idx` where the form writes back. -/
def State.writeBack (s : State) (rn : Reg) (a : Addressing) : State :=
  match a.writeBack with
  | some idx => s.setReg rn idx
  | none => s

/-- A load, `size` the instruction's bytes (R261, R266); an aborted one still writes the base back and takes the Data
Abort (spec/60_exceptions.md R552). The platform is asked with `ea` itself, not rounded down (R264, R293; for THUMB
DEDUCED, log 7). -/
def State.load (s : State) (k : LoadKind) (user : Bool) (size : Word) (rn rd : Reg) (a : Addressing) : Result :=
  match s.busRead user a.ea (k.address a.ea) (k.width a.ea) with
  | none => .next ((s.writeBack rn a).enter .dataAbort)
  | some (raw, s') =>
    if rd = 15#4 then .next ((s'.writeBack rn a).branchTo (alignWord (k.deliver a.ea raw)))
    else .next (((s'.writeBack rn a).setReg rd (k.deliver a.ea raw)).advance size)

/-- A store, `size` the instruction's bytes; Rd = R15 stores pc+12 (R261, R266, R552). The platform is asked with `ea`
itself, not rounded down (R264, R293; for THUMB DEDUCED, log 7). -/
def State.store (s : State) (k : StoreKind) (user : Bool) (size : Word) (rn rd : Reg) (a : Addressing) : Result :=
  match s.busWrite user a.ea (k.address a.ea) k.width (s.reg rd 12) with
  | none => .next ((s.writeBack rn a).enter .dataAbort)
  | some s' => .next ((s'.writeBack rn a).advance size)

/-- The write-back restrictions: neither Rn = Rd nor Rn = R15 (R262, R292). -/
def checkWriteBack (wb : Bool) (rn rd : Reg) (k : Result) : Result :=
  refuseIf (wb && rn == rd) .writebackRnEqRd (refuseIf (wb && rn == 15#4) .writebackR15 k)

/-- A load or a store as the four addressing forms use it. -/
abbrev Transfer := State → Reg → Reg → Addressing → Result

/-- A word, byte, halfword or signed load with the privilege of the mode. -/
def loadOp (k : LoadKind) : Transfer := fun s rn rd a => s.load k s.userMode 4 rn rd a

/-- A store with the privilege of the mode. -/
def storeOp (k : StoreKind) : Transfer := fun s rn rd a => s.store k s.userMode 4 rn rd a

/-- A load of a T form: a non-privileged access in every mode (R263). -/
def loadUserOp (k : LoadKind) : Transfer := fun s rn rd a => s.load k true 4 rn rd a

/-- A store of a T form: a non-privileged access in every mode (R263). -/
def storeUserOp (k : StoreKind) : Transfer := fun s rn rd a => s.store k true 4 rn rd a

/-- `[Rn,#n]{!}` (R261). -/
def immPre (op : Transfer) (c : Cond) (up wb : Bool) (rn rd : Reg) (off : BitVec 12) (s : State) : Result :=
  conditional c s fun s => checkWriteBack wb rn rd (op s rn rd (preIndexed up wb (s.reg rn 8) (zext off)))

/-- `[Rn],#n` (R261). -/
def immPost (op : Transfer) (c : Cond) (up : Bool) (rn rd : Reg) (off : BitVec 12) (s : State) : Result :=
  conditional c s fun s => checkWriteBack true rn rd (op s rn rd (postIndexed up (s.reg rn 8) (zext off)))

/-- `[Rn,Rm,shift]{!}` (R260, R261); Rm = R15 is refused. -/
def regPre (op : Transfer) (c : Cond) (up wb : Bool) (rn rd : Reg) (o : Op2ShImm) (s : State) : Result :=
  conditional c s fun s => refuseIf (o.rm == 15#4) .rmR15InTransfer
    (checkWriteBack wb rn rd (op s rn rd (preIndexed up wb (s.reg rn 8) (s.op2ShImm o).value)))

/-- `[Rn],Rm,shift` (R260, R261); Rm = R15 is refused. -/
def regPost (op : Transfer) (c : Cond) (up : Bool) (rn rd : Reg) (o : Op2ShImm) (s : State) : Result :=
  conditional c s fun s => refuseIf (o.rm == 15#4) .rmR15InTransfer
    (checkWriteBack true rn rd (op s rn rd (postIndexed up (s.reg rn 8) (s.op2ShImm o).value)))

/-- The address of a halfword transfer (R291). -/
def halfIndexed (ix : HalfIndex) (up : Bool) (base offset : Word) : Addressing :=
  match ix with
  | .pre wb => preIndexed up wb base offset
  | .post => postIndexed up base offset

/-- A halfword or signed transfer with a register offset, unshifted (R290, R291). -/
def halfReg (op : Transfer) (c : Cond) (ix : HalfIndex) (up : Bool) (rn rd rm : Reg) (s : State) : Result :=
  conditional c s fun s => refuseIf (rm == 15#4) .rmR15InTransfer
    (checkWriteBack ix.writesBack rn rd (op s rn rd (halfIndexed ix up (s.reg rn 8) (s.reg rm 8))))

/-- A halfword or signed transfer with an immediate offset (R290, R291). -/
def halfImm (op : Transfer) (c : Cond) (ix : HalfIndex) (up : Bool) (rn rd : Reg) (off : BitVec 8) (s : State) :
    Result :=
  conditional c s fun s =>
    checkWriteBack ix.writesBack rn rd (op s rn rd (halfIndexed ix up (s.reg rn 8) (zext off)))

/-! ## Block transfers (spec/46_arm_block_transfer.md, spec/49_thumb_memory_branch.md R493 to R504) -/

/-- A block transfer: its base register, the first address, the new base, whether it is written back, the list. -/
structure Block where
  base : Reg
  start : Word
  newBase : Word
  writeBack : Bool
  list : BitVec 16
  deriving DecidableEq, Repr

/-- 4n as a word. -/
def fourTimes (n : Nat) : Word := BitVec.ofNat 32 (4 * n)

/-- The addresses of LDM and STM by P and U (R312). -/
def blockOf (pre up wb : Bool) (rn : Reg) (list : BitVec 16) (base : Word) : Block :=
  let bytes := fourTimes (listed list).length
  let newBase := if up then base + bytes else base - bytes
  let start :=
    match pre, up with
    | false, true => base
    | true, true => base + 4
    | false, false => base - bytes + 4
    | true, false => base - bytes
  ⟨rn, start, newBase, wb, list⟩

/-- `x[Rn] <- newbase` where the form writes back (R313). -/
def State.blockBase (s : State) (b : Block) : State := if b.writeBack then s.setReg b.base b.newBase else s

/-- The value STM stores for a listed register: with write-back the base is stored old when it is first in the list,
else new (R319); R15 is pc+12 (R316); `m` is the bank of the list (R318). -/
def State.blockValue (s : State) (m : Mode) (b : Block) (i : Reg) : Word :=
  if b.writeBack = true ∧ i = b.base ∧ (listed b.list).head? ≠ some b.base then b.newBase else s.regIn m i 12

/-- The words after an aborted access of a store: each `any` of the old contents or the word (R552). -/
def State.scatter (s : State) (addr : Word) : List Word → State
  | [] => s
  | v :: vs =>
    State.scatter (if s.freeWord.getLsbD 0 then s.drawn.put (alignWord addr) .word v else s.drawn) (addr + 4) vs

/-- Words stored at ascending addresses; whether one aborted, and the state (R72, R314, R552). -/
def State.storeWords (s : State) (user : Bool) (addr : Word) : List Word → Bool × State
  | [] => (false, s)
  | v :: vs =>
    match s.busWrite user (alignWord addr) (alignWord addr) .word v with
    | none => (true, s.scatter (addr + 4) vs)
    | some s' => State.storeWords s' user (addr + 4) vs

/-- What a run of word loads answers: the words read, whether it ended in an abort, and the state. -/
structure LoadRun where
  words : List Word
  aborted : Bool
  state : State
  deriving DecidableEq, Repr

/-- `n` words loaded from ascending addresses, none after an abort (R72, R315, R552). -/
def State.loadWords (s : State) (user : Bool) (addr : Word) : Nat → LoadRun
  | 0 => ⟨[], false, s⟩
  | n + 1 =>
    match s.busRead user (alignWord addr) (alignWord addr) .word with
    | none => ⟨[], true, s⟩
    | some (v, s') =>
      let run := State.loadWords s' user (addr + 4) n
      ⟨v :: run.words, run.aborted, run.state⟩

/-- Listed registers written with the words loaded, in the bank of `m`; R15 is left to the caller (R315). -/
def State.setRegsIn (s : State) (m : Mode) : List Reg → List Word → State
  | r :: rs, v :: vs => State.setRegsIn (s.setRegIn m r v) m rs vs
  | _, _ => s

/-- Listed registers after an aborted load: `any` of old or loaded for those loaded, `any` for the others; R15 is not
written (R552; log 17). -/
def State.spoilRegsIn (s : State) (m : Mode) : List Reg → List Word → State
  | r :: rs, v :: vs =>
    State.spoilRegsIn ((s.setRegIn m r (if s.freeWord.getLsbD 0 then v else s.regIn m r 0)).drawn) m rs vs
  | r :: rs, [] => State.spoilRegsIn ((s.setRegIn m r s.freeWord).drawn) m rs []
  | [], _ => s

/-- STM in the bank of `m`, `size` the instruction's bytes (R314, R318, R322, R501). The accesses have the privilege of
the current mode, those of a user bank transfer too (DESIGN CHOICE, log 7). -/
def State.storeBlock (s : State) (m : Mode) (size : Word) (b : Block) : Result :=
  match s.storeWords s.userMode b.start ((listed b.list).map (s.blockValue m b)) with
  | (true, s') => .next ((s'.blockBase b).enter .dataAbort)
  | (false, s') => .next ((s'.blockBase b).advance size)

/-- The registers and the base after an aborted LDM, and the Data Abort (R552): the base holds `newbase` if the form
writes back, else its old value, also when it is listed. An LDM of the user bank leaves its mark of R620 here too
(DEDUCED, log 11). -/
def State.abortBlock (s : State) (m : Mode) (b : Block) (words : List Word) : State :=
  ((s.spoilRegsIn m (listed b.list) words).setReg b.base (if b.writeBack then b.newBase else s.reg b.base 0)).enter
    .dataAbort

/-- The registers and the base after a completed LDM: no write-back when the base is listed (R315, R319). -/
def State.endLoad (s : State) (m : Mode) (b : Block) (words : List Word) : State :=
  let s' := s.setRegsIn m (listed b.list) words
  if b.list.getLsbD b.base.toNat then s' else s'.blockBase b

/-- LDM in the bank of `m`: `finish` is given the last word loaded and the state after the registers (R315, R318).
The accesses have the privilege of the current mode, those of a user bank transfer too (DESIGN CHOICE, log 7). -/
def State.loadBlock (s : State) (m : Mode) (b : Block) (finish : Word → State → Result) : Result :=
  let run := s.loadWords s.userMode b.start (listed b.list).length
  if run.aborted then .next (run.state.abortBlock m b run.words)
  else finish (run.words.getLastD 0) (run.state.endLoad m b run.words)

/-- The end of an LDM or POP: with R15 in the list the PC is the last word, aligned by `align` (R315, R495). -/
def finishLoad (list : BitVec 16) (size : Word) (align : Word → Word) (last : Word) (s : State) : Result :=
  if list.getLsbD 15 then .next (s.branchTo (align last)) else .next (s.advance size)

/-- The restrictions of LDM and STM: the base is not R15, the list is not empty (R313, R320). -/
def checkBlock (rn : Reg) (list : BitVec 16) (k : Result) : Result :=
  refuseIf (rn == 15#4) .blockBaseR15 (refuseIf (list == 0#16) .emptyRegisterList k)

/-! ## Swap (spec/47_arm_swap_coproc.md R340 to R342) -/

/-- SWP and SWPB: a read and a write of one address as one step; no R15; an abort leaves Rd and memory alone. The
platform is asked with the address not rounded down, as for LDR and STR (DEDUCED, log 7). -/
def State.swap (s : State) (k : LoadKind) (st : StoreKind) (rn rd rm : Reg) : Result :=
  refuseIf (rn == 15#4 || rd == 15#4 || rm == 15#4) .r15InSwap
    (let addr := s.reg rn 8
     match s.busRead s.userMode addr (k.address addr) (k.width addr) with
     | none => .next (s.enter .dataAbort)
     | some (raw, s1) =>
       match s1.busWrite s.userMode addr (st.address addr) st.width (s.reg rm 8) with
       | none => .next (s1.enter .dataAbort)
       | some s2 => .next ((s2.setReg rd (k.deliver addr raw)).advance 4))

/-! ## Coprocessors (spec/47_arm_swap_coproc.md R350 to R356) -/

/-- A coprocessor instruction: absent, the Undefined Instruction exception; present, `act` (R350). -/
def coprocessor (c : Cond) (p : BitVec 4) (s : State) (act : State → Result) : Result :=
  conditional c s fun s => if s.platform.coprocs.contains p then act s else .next (s.enter .undefined)

/-- One more thing a coprocessor was sent (R351; log 9). -/
def State.tell (s : State) (e : CoprocEvent) : State := { s with coprocLog := e :: s.coprocLog }

/-- `ea` and `idx` of LDC and STC: offset times 4; written back exactly when W=1 (R355). -/
def coprocAddressing (pre up wb : Bool) (base : Word) (off : BitVec 8) : Addressing :=
  let idx := indexed up base (zext off * 4)
  ⟨if pre then idx else base, if wb then some idx else none⟩

/-- LDC with the coprocessor present (R355, R552). -/
def State.ldc (s : State) (long : Bool) (rn : Reg) (cd p : BitVec 4) (a : Addressing) : Result :=
  let run := s.loadWords s.userMode a.ea (Config.coprocCount s.coprocLog p long cd)
  if run.aborted then .next (((run.state.tell (.aborted p)).writeBack rn a).enter .dataAbort)
  else .next (((run.state.tell (.ldc p long cd run.words)).writeBack rn a).advance 4)

/-- STC with the coprocessor present (R356, R552). -/
def State.stc (s : State) (long : Bool) (rn : Reg) (cd p : BitVec 4) (a : Addressing) : Result :=
  let n := Config.coprocCount s.coprocLog p long cd
  match s.storeWords s.userMode a.ea ((List.range n).map (Config.coprocStc s.coprocLog p long cd)) with
  | (true, s') => .next (((s'.tell (.aborted p)).writeBack rn a).enter .dataAbort)
  | (false, s') => .next (((s'.tell (.stc p long cd n)).writeBack rn a).advance 4)

/-! ## THUMB (spec/48_thumb_register_ops.md, spec/49_thumb_memory_branch.md) -/

/-- A 3bit register field as a register number (R370). -/
def lo (r : LoReg) : Reg := place 4 0 r

/-- R8+n: a register field whose MSB is set (R420). -/
def hi (r : LoReg) : Reg := place 4 3 1#1 ||| place 4 0 r

/-- A result and all its flags into a Lo register, then pc + 2 (R370, R371). -/
def State.thumbWrite (s : State) (rd : LoReg) (r : AluResult) : Result :=
  .next (((s.setReg (lo rd) r.value).setFlags r.flags).advance 2)

/-- A THUMB operation on two values with an ALU function: the carry in is CPSR.C, kept by the logical ones. -/
def State.thumbAlu (s : State) (f : AluFn) (rd : LoReg) (a b : Word) : Result :=
  s.thumbWrite rd (f s.cpsr.flags a (plain s.cpsr.flags.c b))

/-- The flags of an ALU function and no register (TST, CMP, CMN). -/
def State.thumbCompare (s : State) (f : AluFn) (a b : Word) : Result :=
  .next ((s.setFlags (f s.cpsr.flags a (plain s.cpsr.flags.c b)).flags).advance 2)

/-- Format 1: shift by a 5bit immediate, flags NZC (R375 to R378). -/
def State.thumbShiftImm (s : State) (type : ShiftType) (k : BitVec 5) (rs rd : LoReg) : Result :=
  let o := shiftImm s.cpsr.flags.c type (s.reg (lo rs) 4) k
  s.thumbWrite rd (logical s.cpsr.flags o.value o.carry)

/-- Format 4 shifts: Rd by the low byte of Rs, flags NZC (R396). -/
def State.thumbShiftReg (s : State) (type : ShiftType) (rs rd : LoReg) : Result :=
  let o := shiftReg s.cpsr.flags.c type (s.reg (lo rd) 4) ((s.reg (lo rs) 4).extractLsb' 0 8)
  s.thumbWrite rd (logical s.cpsr.flags o.value o.carry)

/-- The end of format 5 ADD and MOV: no flags; R15 is the PC aligned to 2 (R421, R423). -/
def State.thumbHiWrite (s : State) (d : Reg) (v : Word) : Result :=
  if d = 15#4 then .next (s.branchTo (alignHalf v)) else .next ((s.setReg d v).advance 2)

/-- A THUMB load: base plus offset, no write-back (R450). -/
def State.thumbLoad (s : State) (k : LoadKind) (rd : LoReg) (ea : Word) : Result :=
  s.load k s.userMode 2 0 (lo rd) ⟨ea, none⟩

/-- A THUMB store: base plus offset, no write-back (R450). -/
def State.thumbStore (s : State) (k : StoreKind) (rd : LoReg) (ea : Word) : Result :=
  s.store k s.userMode 2 0 (lo rd) ⟨ea, none⟩

/-- The list of PUSH and POP: R7..R0 and one of R14, R15 (R494, R495). -/
def stackList (bit : Nat) (extra : Bool) (list : BitVec 8) : BitVec 16 := placeBit 16 bit extra ||| place 16 0 list

/-- Format 16: a branch by the condition table (R510). Not taken, it advances like every instruction and is no write to the
PC in the sense of spec/20_memory.md R84 (DEDUCED, log 10). -/
def State.thumbCondBranch (s : State) (c : Cond) (off : BitVec 8) : Result :=
  if condPassed c s.cpsr.flags then .next (s.branchTo (s.pc + 4 + sext off * 2)) else .next (s.advance 2)

end Sys2Proof.Machine
end

