-- ==== Sys2Proof/Machine/ArmAlu.lean ====
section
/-! DEFINITION. The sixteen ARM data-processing opcodes in their three operand forms (spec/41_arm_alu.md). -/

namespace Sys2Proof.Machine

/-- AND{cond}{S} Rd,Rn,#imm32 (R190). -/
def execAndImm (c : Cond) (sf : Bool) (rn rd : Reg) (o : Op2Imm) (s : State) : Result :=
  aluImm aluAnd c sf rn rd o s

/-- AND{cond}{S} Rd,Rn,Rm,SSS#Is (R190). -/
def execAndShImm (c : Cond) (sf : Bool) (rn rd : Reg) (o : Op2ShImm) (s : State) : Result :=
  aluShImm aluAnd c sf rn rd o s

/-- AND{cond}{S} Rd,Rn,Rm,SSS Rs (R190). -/
def execAndShReg (c : Cond) (sf : Bool) (rn rd : Reg) (o : Op2ShReg) (s : State) : Result :=
  aluShReg aluAnd c sf rn rd o s

/-- EOR{cond}{S} Rd,Rn,#imm32 (R191). -/
def execEorImm (c : Cond) (sf : Bool) (rn rd : Reg) (o : Op2Imm) (s : State) : Result :=
  aluImm aluEor c sf rn rd o s

/-- EOR{cond}{S} Rd,Rn,Rm,SSS#Is (R191). -/
def execEorShImm (c : Cond) (sf : Bool) (rn rd : Reg) (o : Op2ShImm) (s : State) : Result :=
  aluShImm aluEor c sf rn rd o s

/-- EOR{cond}{S} Rd,Rn,Rm,SSS Rs (R191). -/
def execEorShReg (c : Cond) (sf : Bool) (rn rd : Reg) (o : Op2ShReg) (s : State) : Result :=
  aluShReg aluEor c sf rn rd o s

/-- SUB{cond}{S} Rd,Rn,#imm32 (R192). -/
def execSubImm (c : Cond) (sf : Bool) (rn rd : Reg) (o : Op2Imm) (s : State) : Result :=
  aluImm aluSub c sf rn rd o s

/-- SUB{cond}{S} Rd,Rn,Rm,SSS#Is (R192). -/
def execSubShImm (c : Cond) (sf : Bool) (rn rd : Reg) (o : Op2ShImm) (s : State) : Result :=
  aluShImm aluSub c sf rn rd o s

/-- SUB{cond}{S} Rd,Rn,Rm,SSS Rs (R192). -/
def execSubShReg (c : Cond) (sf : Bool) (rn rd : Reg) (o : Op2ShReg) (s : State) : Result :=
  aluShReg aluSub c sf rn rd o s

/-- RSB{cond}{S} Rd,Rn,#imm32 (R193). -/
def execRsbImm (c : Cond) (sf : Bool) (rn rd : Reg) (o : Op2Imm) (s : State) : Result :=
  aluImm aluRsb c sf rn rd o s

/-- RSB{cond}{S} Rd,Rn,Rm,SSS#Is (R193). -/
def execRsbShImm (c : Cond) (sf : Bool) (rn rd : Reg) (o : Op2ShImm) (s : State) : Result :=
  aluShImm aluRsb c sf rn rd o s

/-- RSB{cond}{S} Rd,Rn,Rm,SSS Rs (R193). -/
def execRsbShReg (c : Cond) (sf : Bool) (rn rd : Reg) (o : Op2ShReg) (s : State) : Result :=
  aluShReg aluRsb c sf rn rd o s

/-- ADD{cond}{S} Rd,Rn,#imm32 (R194). -/
def execAddImm (c : Cond) (sf : Bool) (rn rd : Reg) (o : Op2Imm) (s : State) : Result :=
  aluImm aluAdd c sf rn rd o s

/-- ADD{cond}{S} Rd,Rn,Rm,SSS#Is (R194). -/
def execAddShImm (c : Cond) (sf : Bool) (rn rd : Reg) (o : Op2ShImm) (s : State) : Result :=
  aluShImm aluAdd c sf rn rd o s

/-- ADD{cond}{S} Rd,Rn,Rm,SSS Rs (R194). -/
def execAddShReg (c : Cond) (sf : Bool) (rn rd : Reg) (o : Op2ShReg) (s : State) : Result :=
  aluShReg aluAdd c sf rn rd o s

/-- ADC{cond}{S} Rd,Rn,#imm32 (R195). -/
def execAdcImm (c : Cond) (sf : Bool) (rn rd : Reg) (o : Op2Imm) (s : State) : Result :=
  aluImm aluAdc c sf rn rd o s

/-- ADC{cond}{S} Rd,Rn,Rm,SSS#Is (R195). -/
def execAdcShImm (c : Cond) (sf : Bool) (rn rd : Reg) (o : Op2ShImm) (s : State) : Result :=
  aluShImm aluAdc c sf rn rd o s

/-- ADC{cond}{S} Rd,Rn,Rm,SSS Rs (R195). -/
def execAdcShReg (c : Cond) (sf : Bool) (rn rd : Reg) (o : Op2ShReg) (s : State) : Result :=
  aluShReg aluAdc c sf rn rd o s

/-- SBC{cond}{S} Rd,Rn,#imm32 (R196). -/
def execSbcImm (c : Cond) (sf : Bool) (rn rd : Reg) (o : Op2Imm) (s : State) : Result :=
  aluImm aluSbc c sf rn rd o s

/-- SBC{cond}{S} Rd,Rn,Rm,SSS#Is (R196). -/
def execSbcShImm (c : Cond) (sf : Bool) (rn rd : Reg) (o : Op2ShImm) (s : State) : Result :=
  aluShImm aluSbc c sf rn rd o s

/-- SBC{cond}{S} Rd,Rn,Rm,SSS Rs (R196). -/
def execSbcShReg (c : Cond) (sf : Bool) (rn rd : Reg) (o : Op2ShReg) (s : State) : Result :=
  aluShReg aluSbc c sf rn rd o s

/-- RSC{cond}{S} Rd,Rn,#imm32 (R197). -/
def execRscImm (c : Cond) (sf : Bool) (rn rd : Reg) (o : Op2Imm) (s : State) : Result :=
  aluImm aluRsc c sf rn rd o s

/-- RSC{cond}{S} Rd,Rn,Rm,SSS#Is (R197). -/
def execRscShImm (c : Cond) (sf : Bool) (rn rd : Reg) (o : Op2ShImm) (s : State) : Result :=
  aluShImm aluRsc c sf rn rd o s

/-- RSC{cond}{S} Rd,Rn,Rm,SSS Rs (R197). -/
def execRscShReg (c : Cond) (sf : Bool) (rn rd : Reg) (o : Op2ShReg) (s : State) : Result :=
  aluShReg aluRsc c sf rn rd o s

/-- TST{cond} Rn,#imm32 (R198). -/
def execTstImm (c : Cond) (rn : Reg) (o : Op2Imm) (s : State) : Result := compareImm aluAnd c rn o s

/-- TST{cond} Rn,Rm,SSS#Is (R198). -/
def execTstShImm (c : Cond) (rn : Reg) (o : Op2ShImm) (s : State) : Result := compareShImm aluAnd c rn o s

/-- TST{cond} Rn,Rm,SSS Rs (R198). -/
def execTstShReg (c : Cond) (rn : Reg) (o : Op2ShReg) (s : State) : Result := compareShReg aluAnd c rn o s

/-- TEQ{cond} Rn,#imm32 (R199). -/
def execTeqImm (c : Cond) (rn : Reg) (o : Op2Imm) (s : State) : Result := compareImm aluEor c rn o s

/-- TEQ{cond} Rn,Rm,SSS#Is (R199). -/
def execTeqShImm (c : Cond) (rn : Reg) (o : Op2ShImm) (s : State) : Result := compareShImm aluEor c rn o s

/-- TEQ{cond} Rn,Rm,SSS Rs (R199). -/
def execTeqShReg (c : Cond) (rn : Reg) (o : Op2ShReg) (s : State) : Result := compareShReg aluEor c rn o s

/-- CMP{cond} Rn,#imm32 (R200). -/
def execCmpImm (c : Cond) (rn : Reg) (o : Op2Imm) (s : State) : Result := compareImm aluSub c rn o s

/-- CMP{cond} Rn,Rm,SSS#Is (R200). -/
def execCmpShImm (c : Cond) (rn : Reg) (o : Op2ShImm) (s : State) : Result := compareShImm aluSub c rn o s

/-- CMP{cond} Rn,Rm,SSS Rs (R200). -/
def execCmpShReg (c : Cond) (rn : Reg) (o : Op2ShReg) (s : State) : Result := compareShReg aluSub c rn o s

/-- CMN{cond} Rn,#imm32 (R201). -/
def execCmnImm (c : Cond) (rn : Reg) (o : Op2Imm) (s : State) : Result := compareImm aluAdd c rn o s

/-- CMN{cond} Rn,Rm,SSS#Is (R201). -/
def execCmnShImm (c : Cond) (rn : Reg) (o : Op2ShImm) (s : State) : Result := compareShImm aluAdd c rn o s

/-- CMN{cond} Rn,Rm,SSS Rs (R201). -/
def execCmnShReg (c : Cond) (rn : Reg) (o : Op2ShReg) (s : State) : Result := compareShReg aluAdd c rn o s

/-- ORR{cond}{S} Rd,Rn,#imm32 (R202). -/
def execOrrImm (c : Cond) (sf : Bool) (rn rd : Reg) (o : Op2Imm) (s : State) : Result :=
  aluImm aluOrr c sf rn rd o s

/-- ORR{cond}{S} Rd,Rn,Rm,SSS#Is (R202). -/
def execOrrShImm (c : Cond) (sf : Bool) (rn rd : Reg) (o : Op2ShImm) (s : State) : Result :=
  aluShImm aluOrr c sf rn rd o s

/-- ORR{cond}{S} Rd,Rn,Rm,SSS Rs (R202). -/
def execOrrShReg (c : Cond) (sf : Bool) (rn rd : Reg) (o : Op2ShReg) (s : State) : Result :=
  aluShReg aluOrr c sf rn rd o s

/-- MOV{cond}{S} Rd,#imm32 (R203). -/
def execMovImm (c : Cond) (sf : Bool) (rd : Reg) (o : Op2Imm) (s : State) : Result := moveImm aluMov c sf rd o s

/-- MOV{cond}{S} Rd,Rm,SSS#Is (R203). -/
def execMovShImm (c : Cond) (sf : Bool) (rd : Reg) (o : Op2ShImm) (s : State) : Result :=
  moveShImm aluMov c sf rd o s

/-- MOV{cond}{S} Rd,Rm,SSS Rs (R203). -/
def execMovShReg (c : Cond) (sf : Bool) (rd : Reg) (o : Op2ShReg) (s : State) : Result :=
  moveShReg aluMov c sf rd o s

/-- BIC{cond}{S} Rd,Rn,#imm32 (R204). -/
def execBicImm (c : Cond) (sf : Bool) (rn rd : Reg) (o : Op2Imm) (s : State) : Result :=
  aluImm aluBic c sf rn rd o s

/-- BIC{cond}{S} Rd,Rn,Rm,SSS#Is (R204). -/
def execBicShImm (c : Cond) (sf : Bool) (rn rd : Reg) (o : Op2ShImm) (s : State) : Result :=
  aluShImm aluBic c sf rn rd o s

/-- BIC{cond}{S} Rd,Rn,Rm,SSS Rs (R204). -/
def execBicShReg (c : Cond) (sf : Bool) (rn rd : Reg) (o : Op2ShReg) (s : State) : Result :=
  aluShReg aluBic c sf rn rd o s

/-- MVN{cond}{S} Rd,#imm32 (R205). -/
def execMvnImm (c : Cond) (sf : Bool) (rd : Reg) (o : Op2Imm) (s : State) : Result := moveImm aluMvn c sf rd o s

/-- MVN{cond}{S} Rd,Rm,SSS#Is (R205). -/
def execMvnShImm (c : Cond) (sf : Bool) (rd : Reg) (o : Op2ShImm) (s : State) : Result :=
  moveShImm aluMvn c sf rd o s

/-- MVN{cond}{S} Rd,Rm,SSS Rs (R205). -/
def execMvnShReg (c : Cond) (sf : Bool) (rd : Reg) (o : Op2ShReg) (s : State) : Result :=
  moveShReg aluMvn c sf rd o s

end Sys2Proof.Machine
end

