-- ==== Sys2Proof/Machine/ArmBlock.lean ====
section
/-! DEFINITION. LDM and STM (spec/46_arm_block_transfer.md). -/

namespace Sys2Proof.Machine

/-- STM{cond}{amod} Rn{!},<Rlist> (R314). -/
def execStm (c : Cond) (pre up wb : Bool) (rn : Reg) (list : BitVec 16) (s : State) : Result :=
  conditional c s fun s => checkBlock rn list
    (s.storeBlock s.cpsr.mode 4 (blockOf pre up wb rn list (s.reg rn 8)))

/-- LDM{cond}{amod} Rn{!},<Rlist> (R315). -/
def execLdm (c : Cond) (pre up wb : Bool) (rn : Reg) (list : BitVec 16) (s : State) : Result :=
  conditional c s fun s => checkBlock rn list
    (s.loadBlock s.cpsr.mode (blockOf pre up wb rn list (s.reg rn 8)) (finishLoad list 4 alignWord))

/-- LDM^ with R15 in the list; `list` holds R14..R0 (R317). -/
def execLdmPcS (c : Cond) (pre up wb : Bool) (rn : Reg) (list : BitVec 15) (s : State) : Result :=
  let full : BitVec 16 := place 16 15 1#1 ||| place 16 0 list
  conditional c s fun s => refuseIf (rn == 15#4) .blockBaseR15
    (refuseIf (s.spsrs.get? s.cpsr.mode == none) .noSpsr
      (s.loadBlock s.cpsr.mode (blockOf pre up wb rn full (s.reg rn 8)) fun last s => s.exceptionReturn last))

/-- STM^, user bank transfer (R318). -/
def execStmS (c : Cond) (pre up wb : Bool) (rn : Reg) (list : BitVec 16) (s : State) : Result :=
  conditional c s fun s => checkBlock rn list (refuseIf wb .userBankWriteback
    (s.storeBlock .usr 4 (blockOf pre up wb rn list (s.reg rn 8))))

/-- LDM^ without R15, user bank transfer; `list` holds R14..R0 (R318). Completed or aborted, it leaves the mark of
spec/70_reset_and_hazards.md R620 to the next instruction, in User and System mode too, where R318 says that it behaves as
with S=0 (DEDUCED, log 11). -/
def execLdmUserS (c : Cond) (pre up wb : Bool) (rn : Reg) (list : BitVec 15) (s : State) : Result :=
  let full : BitVec 16 := place 16 0 list
  conditional c s fun s => checkBlock rn full (refuseIf wb .userBankWriteback
    (s.markUserLdm.loadBlock .usr (blockOf pre up wb rn full (s.reg rn 8)) fun _ s => .next (s.advance 4)))

end Sys2Proof.Machine
end

