-- ==== Sys2Proof/Machine/ArmBranch.lean ====
section
/-! DEFINITION. ARM branches, BX, SWI and the Undefined instruction (spec/40_arm_branch.md). -/

namespace Sys2Proof.Machine

/-- B{cond} label (R150). -/
def execB (c : Cond) (off : BitVec 24) (s : State) : Result :=
  conditional c s fun s => .next (s.branchTo (s.pc + 8 + sext off * 4))

/-- BL{cond} label (R151). -/
def execBl (c : Cond) (off : BitVec 24) (s : State) : Result :=
  conditional c s fun s => .next ((s.setReg 14#4 (s.pc + 4)).branchTo (s.pc + 8 + sext off * 4))

/-- BX{cond} Rn (R154). -/
def execBx (c : Cond) (rn : Reg) (s : State) : Result :=
  conditional c s fun s => refuseIf (rn == 15#4) .bxR15 (.next (s.exchange (s.reg rn 8)))

/-- SWI{cond} nn (R157). -/
def execSwi (c : Cond) (_comment : BitVec 24) (s : State) : Result :=
  conditional c s fun s => .next (s.enter .softwareInterrupt)

/-- The Undefined instruction; its free bits 24-5 and 3-0 (R160). -/
def execUndefined (c : Cond) (_hi : BitVec 20) (_lo : BitVec 4) (s : State) : Result :=
  conditional c s fun s => .next (s.enter .undefined)

end Sys2Proof.Machine
end

