-- ==== Sys2Proof/Machine/ArmHalfword.lean ====
section
/-! DEFINITION. STRH, LDRH, LDRSB, LDRSH (spec/45_arm_halfword_transfer.md). -/

namespace Sys2Proof.Machine

/-- STRH{cond} with a register offset (R295). -/
def execStrhReg (c : Cond) (ix : HalfIndex) (up : Bool) (rn rd rm : Reg) (s : State) : Result :=
  halfReg (storeOp .half) c ix up rn rd rm s

/-- STRH{cond} with an immediate offset (R295). -/
def execStrhImm (c : Cond) (ix : HalfIndex) (up : Bool) (rn rd : Reg) (off : BitVec 8) (s : State) : Result :=
  halfImm (storeOp .half) c ix up rn rd off s

/-- LDRH{cond} with a register offset (R296). -/
def execLdrhReg (c : Cond) (ix : HalfIndex) (up : Bool) (rn rd rm : Reg) (s : State) : Result :=
  halfReg (loadOp .half) c ix up rn rd rm s

/-- LDRH{cond} with an immediate offset (R296). -/
def execLdrhImm (c : Cond) (ix : HalfIndex) (up : Bool) (rn rd : Reg) (off : BitVec 8) (s : State) : Result :=
  halfImm (loadOp .half) c ix up rn rd off s

/-- LDRSB{cond} with a register offset (R297). -/
def execLdrsbReg (c : Cond) (ix : HalfIndex) (up : Bool) (rn rd rm : Reg) (s : State) : Result :=
  halfReg (loadOp .signedByte) c ix up rn rd rm s

/-- LDRSB{cond} with an immediate offset (R297). -/
def execLdrsbImm (c : Cond) (ix : HalfIndex) (up : Bool) (rn rd : Reg) (off : BitVec 8) (s : State) : Result :=
  halfImm (loadOp .signedByte) c ix up rn rd off s

/-- LDRSH{cond} with a register offset (R298). -/
def execLdrshReg (c : Cond) (ix : HalfIndex) (up : Bool) (rn rd rm : Reg) (s : State) : Result :=
  halfReg (loadOp .signedHalf) c ix up rn rd rm s

/-- LDRSH{cond} with an immediate offset (R298). -/
def execLdrshImm (c : Cond) (ix : HalfIndex) (up : Bool) (rn rd : Reg) (off : BitVec 8) (s : State) : Result :=
  halfImm (loadOp .signedHalf) c ix up rn rd off s

end Sys2Proof.Machine
end

