-- ==== Sys2Proof/Machine/ArmMultiply.lean ====
section
/-! DEFINITION. The ARM multiplies (spec/42_arm_multiply.md). -/

namespace Sys2Proof.Machine

/-- MUL{cond}{S} Rd,Rm,Rs (R222). -/
def execMul (c : Cond) (sf : Bool) (rd rs rm : Reg) (s : State) : Result :=
  multiply c sf rd rs rm [] (fun _ => 0) s

/-- MLA{cond}{S} Rd,Rm,Rs,Rn (R223). -/
def execMla (c : Cond) (sf : Bool) (rd rn rs rm : Reg) (s : State) : Result :=
  multiply c sf rd rs rm [rn] (fun s => s.reg rn 8) s

/-- UMULL{cond}{S} RdLo,RdHi,Rm,Rs (R229). -/
def execUmull (c : Cond) (sf : Bool) (rdHi rdLo rs rm : Reg) (s : State) : Result :=
  longMultiply umul64 false c sf rdHi rdLo rs rm s

/-- UMLAL{cond}{S} RdLo,RdHi,Rm,Rs (R230). -/
def execUmlal (c : Cond) (sf : Bool) (rdHi rdLo rs rm : Reg) (s : State) : Result :=
  longMultiply umul64 true c sf rdHi rdLo rs rm s

/-- SMULL{cond}{S} RdLo,RdHi,Rm,Rs (R231). -/
def execSmull (c : Cond) (sf : Bool) (rdHi rdLo rs rm : Reg) (s : State) : Result :=
  longMultiply smul64 false c sf rdHi rdLo rs rm s

/-- SMLAL{cond}{S} RdLo,RdHi,Rm,Rs (R232). -/
def execSmlal (c : Cond) (sf : Bool) (rdHi rdLo rs rm : Reg) (s : State) : Result :=
  longMultiply smul64 true c sf rdHi rdLo rs rm s

end Sys2Proof.Machine
end

