-- ==== Sys2Proof/Machine/ArmPsr.lean ====
section
/-! DEFINITION. MRS and MSR (spec/43_arm_psr.md). -/

namespace Sys2Proof.Machine

/-- MRS{cond} Rd,Psr (R240). Rd = R15 is named before a missing SPSR (DESIGN CHOICE, log 24). -/
def execMrs (c : Cond) (spsr : Bool) (rd : Reg) (s : State) : Result :=
  conditional c s fun s => refuseIf (rd == 15#4) .mrsRdR15 (s.mrs spsr rd)

/-- MSR{cond} Psr{_field},Rm (R241). -/
def execMsrReg (c : Cond) (spsr : Bool) (fields : FieldMask) (rm : Reg) (s : State) : Result :=
  conditional c s fun s => refuseIf (rm == 15#4) .msrRmR15 (s.msr spsr fields (s.reg rm 8))

/-- MSR{cond} Psr{_field},#imm (R242). -/
def execMsrImm (c : Cond) (spsr : Bool) (fields : FieldMask) (o : Op2Imm) (s : State) : Result :=
  conditional c s fun s => s.msr spsr fields (Op2Imm.value o)

end Sys2Proof.Machine
end

