-- ==== Sys2Proof/Machine/ArmSwapCoproc.lean ====
section
/-! DEFINITION. SWP, SWPB and the coprocessor instructions (spec/47_arm_swap_coproc.md). -/

namespace Sys2Proof.Machine

/-- SWP{cond} Rd,Rm,[Rn] (R341). -/
def execSwp (c : Cond) (rn rd rm : Reg) (s : State) : Result :=
  conditional c s fun s => s.swap .word .word rn rd rm

/-- SWP{cond}B Rd,Rm,[Rn] (R342). -/
def execSwpb (c : Cond) (rn rd rm : Reg) (s : State) : Result :=
  conditional c s fun s => s.swap .byte .byte rn rd rm

/-- MRC{cond} Pn,cpopc,Rd,Cn,Cm,cp (R352). -/
def execMrc (c : Cond) (p : BitVec 4) (op : CoprocRegOp) (rd : Reg) (s : State) : Result :=
  coprocessor c p s fun s =>
    let v := Config.coprocMrc s.coprocLog p op
    let s' := s.tell (.mrc p op)
    .next ((if rd = 15#4 then s'.setFlags (Nzcv.ofWord v) else s'.setReg rd v).advance 4)

/-- MCR{cond} Pn,cpopc,Rd,Cn,Cm,cp (R353). -/
def execMcr (c : Cond) (p : BitVec 4) (op : CoprocRegOp) (rd : Reg) (s : State) : Result :=
  coprocessor c p s fun s => .next ((s.tell (.mcr p op (s.reg rd 12))).advance 4)

/-- CDP{cond} Pn,cpopc,Cd,Cn,Cm,cp (R354). -/
def execCdp (c : Cond) (p cpopc cd cn cm : BitVec 4) (cp : BitVec 3) (s : State) : Result :=
  coprocessor c p s fun s => .next ((s.tell (.cdp p cpopc cd cn cm cp)).advance 4)

/-- LDC{cond}{L} Pn,Cd,<Address> (R355). -/
def execLdc (c : Cond) (pre up long wb : Bool) (rn : Reg) (cd p : BitVec 4) (off : BitVec 8) (s : State) : Result :=
  coprocessor c p s fun s => refuseIf (wb && rn == 15#4) .writebackR15
    (s.ldc long rn cd p (coprocAddressing pre up wb (s.reg rn 8) off))

/-- STC{cond}{L} Pn,Cd,<Address> (R356). -/
def execStc (c : Cond) (pre up long wb : Bool) (rn : Reg) (cd p : BitVec 4) (off : BitVec 8) (s : State) : Result :=
  coprocessor c p s fun s => refuseIf (wb && rn == 15#4) .writebackR15
    (s.stc long rn cd p (coprocAddressing pre up wb (s.reg rn 8) off))

end Sys2Proof.Machine
end

