-- ==== Sys2Proof/Machine/ArmTransfer.lean ====
section
/-! DEFINITION. LDR, LDRB, STR, STRB and their T forms (spec/44_arm_single_transfer.md). -/

namespace Sys2Proof.Machine

/-- LDR{cond} Rd,[Rn,#±n]{!} (R270). -/
def execLdrImmPre (c : Cond) (up wb : Bool) (rn rd : Reg) (off : BitVec 12) (s : State) : Result :=
  immPre (loadOp .word) c up wb rn rd off s

/-- LDR{cond} Rd,[Rn],#±n (R270). -/
def execLdrImmPost (c : Cond) (up : Bool) (rn rd : Reg) (off : BitVec 12) (s : State) : Result :=
  immPost (loadOp .word) c up rn rd off s

/-- LDR{cond} Rd,[Rn,±Rm,shift]{!} (R270). -/
def execLdrRegPre (c : Cond) (up wb : Bool) (rn rd : Reg) (o : Op2ShImm) (s : State) : Result :=
  regPre (loadOp .word) c up wb rn rd o s

/-- LDR{cond} Rd,[Rn],±Rm,shift (R270). -/
def execLdrRegPost (c : Cond) (up : Bool) (rn rd : Reg) (o : Op2ShImm) (s : State) : Result :=
  regPost (loadOp .word) c up rn rd o s

/-- LDRB{cond} Rd,[Rn,#±n]{!} (R271). -/
def execLdrbImmPre (c : Cond) (up wb : Bool) (rn rd : Reg) (off : BitVec 12) (s : State) : Result :=
  immPre (loadOp .byte) c up wb rn rd off s

/-- LDRB{cond} Rd,[Rn],#±n (R271). -/
def execLdrbImmPost (c : Cond) (up : Bool) (rn rd : Reg) (off : BitVec 12) (s : State) : Result :=
  immPost (loadOp .byte) c up rn rd off s

/-- LDRB{cond} Rd,[Rn,±Rm,shift]{!} (R271). -/
def execLdrbRegPre (c : Cond) (up wb : Bool) (rn rd : Reg) (o : Op2ShImm) (s : State) : Result :=
  regPre (loadOp .byte) c up wb rn rd o s

/-- LDRB{cond} Rd,[Rn],±Rm,shift (R271). -/
def execLdrbRegPost (c : Cond) (up : Bool) (rn rd : Reg) (o : Op2ShImm) (s : State) : Result :=
  regPost (loadOp .byte) c up rn rd o s

/-- STR{cond} Rd,[Rn,#±n]{!} (R272). -/
def execStrImmPre (c : Cond) (up wb : Bool) (rn rd : Reg) (off : BitVec 12) (s : State) : Result :=
  immPre (storeOp .word) c up wb rn rd off s

/-- STR{cond} Rd,[Rn],#±n (R272). -/
def execStrImmPost (c : Cond) (up : Bool) (rn rd : Reg) (off : BitVec 12) (s : State) : Result :=
  immPost (storeOp .word) c up rn rd off s

/-- STR{cond} Rd,[Rn,±Rm,shift]{!} (R272). -/
def execStrRegPre (c : Cond) (up wb : Bool) (rn rd : Reg) (o : Op2ShImm) (s : State) : Result :=
  regPre (storeOp .word) c up wb rn rd o s

/-- STR{cond} Rd,[Rn],±Rm,shift (R272). -/
def execStrRegPost (c : Cond) (up : Bool) (rn rd : Reg) (o : Op2ShImm) (s : State) : Result :=
  regPost (storeOp .word) c up rn rd o s

/-- STRB{cond} Rd,[Rn,#±n]{!} (R273). -/
def execStrbImmPre (c : Cond) (up wb : Bool) (rn rd : Reg) (off : BitVec 12) (s : State) : Result :=
  immPre (storeOp .byte) c up wb rn rd off s

/-- STRB{cond} Rd,[Rn],#±n (R273). -/
def execStrbImmPost (c : Cond) (up : Bool) (rn rd : Reg) (off : BitVec 12) (s : State) : Result :=
  immPost (storeOp .byte) c up rn rd off s

/-- STRB{cond} Rd,[Rn,±Rm,shift]{!} (R273). -/
def execStrbRegPre (c : Cond) (up wb : Bool) (rn rd : Reg) (o : Op2ShImm) (s : State) : Result :=
  regPre (storeOp .byte) c up wb rn rd o s

/-- STRB{cond} Rd,[Rn],±Rm,shift (R273). -/
def execStrbRegPost (c : Cond) (up : Bool) (rn rd : Reg) (o : Op2ShImm) (s : State) : Result :=
  regPost (storeOp .byte) c up rn rd o s

/-- LDRT{cond} Rd,[Rn],#±n (R274, R263). -/
def execLdrtImm (c : Cond) (up : Bool) (rn rd : Reg) (off : BitVec 12) (s : State) : Result :=
  immPost (loadUserOp .word) c up rn rd off s

/-- LDRT{cond} Rd,[Rn],±Rm,shift (R274, R263). -/
def execLdrtReg (c : Cond) (up : Bool) (rn rd : Reg) (o : Op2ShImm) (s : State) : Result :=
  regPost (loadUserOp .word) c up rn rd o s

/-- LDRBT{cond} Rd,[Rn],#±n (R275, R263). -/
def execLdrbtImm (c : Cond) (up : Bool) (rn rd : Reg) (off : BitVec 12) (s : State) : Result :=
  immPost (loadUserOp .byte) c up rn rd off s

/-- LDRBT{cond} Rd,[Rn],±Rm,shift (R275, R263). -/
def execLdrbtReg (c : Cond) (up : Bool) (rn rd : Reg) (o : Op2ShImm) (s : State) : Result :=
  regPost (loadUserOp .byte) c up rn rd o s

/-- STRT{cond} Rd,[Rn],#±n (R276, R263). -/
def execStrtImm (c : Cond) (up : Bool) (rn rd : Reg) (off : BitVec 12) (s : State) : Result :=
  immPost (storeUserOp .word) c up rn rd off s

/-- STRT{cond} Rd,[Rn],±Rm,shift (R276, R263). -/
def execStrtReg (c : Cond) (up : Bool) (rn rd : Reg) (o : Op2ShImm) (s : State) : Result :=
  regPost (storeUserOp .word) c up rn rd o s

/-- STRBT{cond} Rd,[Rn],#±n (R277, R263). -/
def execStrbtImm (c : Cond) (up : Bool) (rn rd : Reg) (off : BitVec 12) (s : State) : Result :=
  immPost (storeUserOp .byte) c up rn rd off s

/-- STRBT{cond} Rd,[Rn],±Rm,shift (R277, R263). -/
def execStrbtReg (c : Cond) (up : Bool) (rn rd : Reg) (o : Op2ShImm) (s : State) : Result :=
  regPost (storeUserOp .byte) c up rn rd o s

end Sys2Proof.Machine
end

