-- ==== Sys2Proof/Machine/ThumbAlu.lean ====
section
/-! DEFINITION. THUMB formats 1 to 5 and 12, 13: register operations, BX and address arithmetic (spec/48_thumb_register_ops.md, R485 to R490). -/

namespace Sys2Proof.Machine

/-- LSL Rd,Rs,#Offset (R376). -/
def execTLslImm (k : BitVec 5) (rs rd : LoReg) (s : State) : Result := s.thumbShiftImm .lsl k rs rd

/-- LSR Rd,Rs,#Offset (R377). -/
def execTLsrImm (k : BitVec 5) (rs rd : LoReg) (s : State) : Result := s.thumbShiftImm .lsr k rs rd

/-- ASR Rd,Rs,#Offset (R378). -/
def execTAsrImm (k : BitVec 5) (rs rd : LoReg) (s : State) : Result := s.thumbShiftImm .asr k rs rd

/-- ADD Rd,Rs,Rn (R381). -/
def execTAddReg (rn rs rd : LoReg) (s : State) : Result := s.thumbAlu aluAdd rd (s.reg (lo rs) 4) (s.reg (lo rn) 4)

/-- SUB Rd,Rs,Rn (R382). -/
def execTSubReg (rn rs rd : LoReg) (s : State) : Result := s.thumbAlu aluSub rd (s.reg (lo rs) 4) (s.reg (lo rn) 4)

/-- ADD Rd,Rs,#nn (R383). -/
def execTAddImm3 (nn : BitVec 3) (rs rd : LoReg) (s : State) : Result :=
  s.thumbAlu aluAdd rd (s.reg (lo rs) 4) (zext nn)

/-- SUB Rd,Rs,#nn (R384). -/
def execTSubImm3 (nn : BitVec 3) (rs rd : LoReg) (s : State) : Result :=
  s.thumbAlu aluSub rd (s.reg (lo rs) 4) (zext nn)

/-- MOV Rd,#nn (R387). -/
def execTMovImm8 (rd : LoReg) (nn : BitVec 8) (s : State) : Result := s.thumbAlu aluMov rd 0 (zext nn)

/-- CMP Rd,#nn (R388). -/
def execTCmpImm8 (rd : LoReg) (nn : BitVec 8) (s : State) : Result :=
  s.thumbCompare aluSub (s.reg (lo rd) 4) (zext nn)

/-- ADD Rd,#nn (R389). -/
def execTAddImm8 (rd : LoReg) (nn : BitVec 8) (s : State) : Result :=
  s.thumbAlu aluAdd rd (s.reg (lo rd) 4) (zext nn)

/-- SUB Rd,#nn (R390). -/
def execTSubImm8 (rd : LoReg) (nn : BitVec 8) (s : State) : Result :=
  s.thumbAlu aluSub rd (s.reg (lo rd) 4) (zext nn)

/-- AND Rd,Rs (R397). -/
def execTAnd (rs rd : LoReg) (s : State) : Result := s.thumbAlu aluAnd rd (s.reg (lo rd) 4) (s.reg (lo rs) 4)

/-- EOR Rd,Rs (R398). -/
def execTEor (rs rd : LoReg) (s : State) : Result := s.thumbAlu aluEor rd (s.reg (lo rd) 4) (s.reg (lo rs) 4)

/-- ADC Rd,Rs (R402). -/
def execTAdc (rs rd : LoReg) (s : State) : Result := s.thumbAlu aluAdc rd (s.reg (lo rd) 4) (s.reg (lo rs) 4)

/-- SBC Rd,Rs (R403). -/
def execTSbc (rs rd : LoReg) (s : State) : Result := s.thumbAlu aluSbc rd (s.reg (lo rd) 4) (s.reg (lo rs) 4)

/-- ORR Rd,Rs (R409). -/
def execTOrr (rs rd : LoReg) (s : State) : Result := s.thumbAlu aluOrr rd (s.reg (lo rd) 4) (s.reg (lo rs) 4)

/-- BIC Rd,Rs (R411). -/
def execTBic (rs rd : LoReg) (s : State) : Result := s.thumbAlu aluBic rd (s.reg (lo rd) 4) (s.reg (lo rs) 4)

/-- LSL Rd,Rs (R399). -/
def execTLslReg (rs rd : LoReg) (s : State) : Result := s.thumbShiftReg .lsl rs rd

/-- LSR Rd,Rs (R400). -/
def execTLsrReg (rs rd : LoReg) (s : State) : Result := s.thumbShiftReg .lsr rs rd

/-- ASR Rd,Rs (R401). -/
def execTAsrReg (rs rd : LoReg) (s : State) : Result := s.thumbShiftReg .asr rs rd

/-- ROR Rd,Rs (R404). -/
def execTRor (rs rd : LoReg) (s : State) : Result := s.thumbShiftReg .ror rs rd

/-- TST Rd,Rs (R405). -/
def execTTst (rs rd : LoReg) (s : State) : Result := s.thumbCompare aluAnd (s.reg (lo rd) 4) (s.reg (lo rs) 4)

/-- CMP Rd,Rs (R407). -/
def execTCmpReg (rs rd : LoReg) (s : State) : Result := s.thumbCompare aluSub (s.reg (lo rd) 4) (s.reg (lo rs) 4)

/-- CMN Rd,Rs (R408). -/
def execTCmn (rs rd : LoReg) (s : State) : Result := s.thumbCompare aluAdd (s.reg (lo rd) 4) (s.reg (lo rs) 4)

/-- NEG Rd,Rs (R406). -/
def execTNeg (rs rd : LoReg) (s : State) : Result := s.thumbAlu aluRsb rd (s.reg (lo rs) 4) 0

/-- MVN Rd,Rs (R412). -/
def execTMvn (rs rd : LoReg) (s : State) : Result := s.thumbAlu aluMvn rd 0 (s.reg (lo rs) 4)

/-- MUL Rd,Rs (R410). -/
def execTMul (rs rd : LoReg) (s : State) : Result :=
  let r := s.reg (lo rd) 4 * s.reg (lo rs) 4
  .next ((((s.setReg (lo rd) r).setFlags (mulFlags s.cpsr.flags r s.freeWord)).drawn).advance 2)

/-- ADD Rd,Rs with MSBd=1: the destination is R8+rd (R421). -/
def execTAddHiDst (rs : Reg) (rd : LoReg) (s : State) : Result :=
  s.thumbHiWrite (hi rd) (s.reg (hi rd) 4 + s.reg rs 4)

/-- ADD Rd,Rs with MSBd=0, MSBs=1: the source is R8+rs (R421). -/
def execTAddHiSrc (rs rd : LoReg) (s : State) : Result :=
  s.thumbHiWrite (lo rd) (s.reg (lo rd) 4 + s.reg (hi rs) 4)

/-- CMP Rd,Rs with MSBd=1: the destination is R8+rd (R422). -/
def execTCmpHiDst (rs : Reg) (rd : LoReg) (s : State) : Result :=
  s.thumbCompare aluSub (s.reg (hi rd) 4) (s.reg rs 4)

/-- CMP Rd,Rs with MSBd=0, MSBs=1: the source is R8+rs (R422). -/
def execTCmpHiSrc (rs rd : LoReg) (s : State) : Result := s.thumbCompare aluSub (s.reg (lo rd) 4) (s.reg (hi rs) 4)

/-- MOV Rd,Rs with MSBd=1: the destination is R8+rd (R423). -/
def execTMovHiDst (rs : Reg) (rd : LoReg) (s : State) : Result := s.thumbHiWrite (hi rd) (s.reg rs 4)

/-- MOV Rd,Rs with MSBd=0, MSBs=1: the source is R8+rs (R423). -/
def execTMovHiSrc (rs rd : LoReg) (s : State) : Result := s.thumbHiWrite (lo rd) (s.reg (hi rs) 4)

/-- BX Rs (R428). -/
def execTBx (rs : Reg) (s : State) : Result :=
  .next (s.exchange (if rs = 15#4 then clearBit1 (s.pc + 4) else s.reg rs 4))

/-- ADD Rd,PC,#nn (R485). -/
def execTAddPc (rd : LoReg) (nn : BitVec 8) (s : State) : Result :=
  .next ((s.setReg (lo rd) (clearBit1 (s.pc + 4) + zext nn * 4)).advance 2)

/-- ADD Rd,SP,#nn (R486). -/
def execTAddSp (rd : LoReg) (nn : BitVec 8) (s : State) : Result :=
  .next ((s.setReg (lo rd) (s.reg 13#4 4 + zext nn * 4)).advance 2)

/-- ADD SP,#nn (R489). -/
def execTSpAdd (nn : BitVec 7) (s : State) : Result :=
  .next ((s.setReg 13#4 (s.reg 13#4 4 + zext nn * 4)).advance 2)

/-- ADD SP,#-nn (R490). -/
def execTSpSub (nn : BitVec 7) (s : State) : Result :=
  .next ((s.setReg 13#4 (s.reg 13#4 4 - zext nn * 4)).advance 2)

end Sys2Proof.Machine
end

