-- ==== Sys2Proof/Machine/ThumbBranch.lean ====
section
/-! DEFINITION. THUMB formats 16 to 19: branches, SWI, BL (spec/49_thumb_memory_branch.md). -/

namespace Sys2Proof.Machine

/-- BEQ label (R510). -/
def execTBeq (off : BitVec 8) (s : State) : Result := s.thumbCondBranch .eq off

/-- BNE label (R510). -/
def execTBne (off : BitVec 8) (s : State) : Result := s.thumbCondBranch .ne off

/-- BCS label (R510). -/
def execTBcs (off : BitVec 8) (s : State) : Result := s.thumbCondBranch .cs off

/-- BCC label (R510). -/
def execTBcc (off : BitVec 8) (s : State) : Result := s.thumbCondBranch .cc off

/-- BMI label (R510). -/
def execTBmi (off : BitVec 8) (s : State) : Result := s.thumbCondBranch .mi off

/-- BPL label (R510). -/
def execTBpl (off : BitVec 8) (s : State) : Result := s.thumbCondBranch .pl off

/-- BVS label (R510). -/
def execTBvs (off : BitVec 8) (s : State) : Result := s.thumbCondBranch .vs off

/-- BVC label (R510). -/
def execTBvc (off : BitVec 8) (s : State) : Result := s.thumbCondBranch .vc off

/-- BHI label (R510). -/
def execTBhi (off : BitVec 8) (s : State) : Result := s.thumbCondBranch .hi off

/-- BLS label (R510). -/
def execTBls (off : BitVec 8) (s : State) : Result := s.thumbCondBranch .ls off

/-- BGE label (R510). -/
def execTBge (off : BitVec 8) (s : State) : Result := s.thumbCondBranch .ge off

/-- BLT label (R510). -/
def execTBlt (off : BitVec 8) (s : State) : Result := s.thumbCondBranch .lt off

/-- BGT label (R510). -/
def execTBgt (off : BitVec 8) (s : State) : Result := s.thumbCondBranch .gt off

/-- BLE label (R510). -/
def execTBle (off : BitVec 8) (s : State) : Result := s.thumbCondBranch .le off

/-- SWI nn (R515). -/
def execTSwi (_comment : BitVec 8) (s : State) : Result := .next (s.enter .softwareInterrupt)

/-- B label (R518). -/
def execTB (off : BitVec 11) (s : State) : Result := .next (s.branchTo (s.pc + 4 + sext off * 2))

/-- BL label, first halfword (R520). -/
def execTBlFirst (nn : BitVec 11) (s : State) : Result :=
  let high : Word := sext nn <<< 12
  .next ((s.setReg 14#4 (s.pc + 4 + high)).advance 2)

/-- BL label, second halfword (R521). -/
def execTBlSecond (nn : BitVec 11) (s : State) : Result :=
  let low : Word := zext nn <<< 1
  let target := s.reg 14#4 4 + low
  .next ((s.setReg 14#4 ((s.pc + 2) ||| 1#32)).branchTo (alignHalf target))

end Sys2Proof.Machine
end

