-- ==== Sys2Proof/Machine/ThumbMemory.lean ====
section
/-! DEFINITION. THUMB formats 6 to 11, 14, 15: loads and stores (spec/49_thumb_memory_branch.md). -/

namespace Sys2Proof.Machine

/-- LDR Rd,[PC,#nn] (R452). -/
def execTLdrPc (rd : LoReg) (nn : BitVec 8) (s : State) : Result :=
  s.thumbLoad .word rd (clearBit1 (s.pc + 4) + zext nn * 4)

/-- STR Rd,[Rb,Ro] (R456). -/
def execTStrReg (ro rb rd : LoReg) (s : State) : Result :=
  s.thumbStore .word rd (s.reg (lo rb) 4 + s.reg (lo ro) 4)

/-- STRB Rd,[Rb,Ro] (R457). -/
def execTStrbReg (ro rb rd : LoReg) (s : State) : Result :=
  s.thumbStore .byte rd (s.reg (lo rb) 4 + s.reg (lo ro) 4)

/-- LDR Rd,[Rb,Ro] (R458). -/
def execTLdrReg (ro rb rd : LoReg) (s : State) : Result := s.thumbLoad .word rd (s.reg (lo rb) 4 + s.reg (lo ro) 4)

/-- LDRB Rd,[Rb,Ro] (R459). -/
def execTLdrbReg (ro rb rd : LoReg) (s : State) : Result :=
  s.thumbLoad .byte rd (s.reg (lo rb) 4 + s.reg (lo ro) 4)

/-- STRH Rd,[Rb,Ro] (R463). -/
def execTStrhReg (ro rb rd : LoReg) (s : State) : Result :=
  s.thumbStore .half rd (s.reg (lo rb) 4 + s.reg (lo ro) 4)

/-- LDSB Rd,[Rb,Ro] (R464). -/
def execTLdsbReg (ro rb rd : LoReg) (s : State) : Result :=
  s.thumbLoad .signedByte rd (s.reg (lo rb) 4 + s.reg (lo ro) 4)

/-- LDRH Rd,[Rb,Ro] (R465). -/
def execTLdrhReg (ro rb rd : LoReg) (s : State) : Result :=
  s.thumbLoad .half rd (s.reg (lo rb) 4 + s.reg (lo ro) 4)

/-- LDSH Rd,[Rb,Ro] (R466). -/
def execTLdshReg (ro rb rd : LoReg) (s : State) : Result :=
  s.thumbLoad .signedHalf rd (s.reg (lo rb) 4 + s.reg (lo ro) 4)

/-- STR Rd,[Rb,#nn] (R471). -/
def execTStrImm (nn : BitVec 5) (rb rd : LoReg) (s : State) : Result :=
  s.thumbStore .word rd (s.reg (lo rb) 4 + zext nn * 4)

/-- LDR Rd,[Rb,#nn] (R472). -/
def execTLdrImm (nn : BitVec 5) (rb rd : LoReg) (s : State) : Result :=
  s.thumbLoad .word rd (s.reg (lo rb) 4 + zext nn * 4)

/-- STRB Rd,[Rb,#nn] (R473). -/
def execTStrbImm (nn : BitVec 5) (rb rd : LoReg) (s : State) : Result :=
  s.thumbStore .byte rd (s.reg (lo rb) 4 + zext nn)

/-- LDRB Rd,[Rb,#nn] (R474). -/
def execTLdrbImm (nn : BitVec 5) (rb rd : LoReg) (s : State) : Result :=
  s.thumbLoad .byte rd (s.reg (lo rb) 4 + zext nn)

/-- STRH Rd,[Rb,#nn] (R477). -/
def execTStrhImm (nn : BitVec 5) (rb rd : LoReg) (s : State) : Result :=
  s.thumbStore .half rd (s.reg (lo rb) 4 + zext nn * 2)

/-- LDRH Rd,[Rb,#nn] (R478). -/
def execTLdrhImm (nn : BitVec 5) (rb rd : LoReg) (s : State) : Result :=
  s.thumbLoad .half rd (s.reg (lo rb) 4 + zext nn * 2)

/-- STR Rd,[SP,#nn] (R481). -/
def execTStrSp (rd : LoReg) (nn : BitVec 8) (s : State) : Result :=
  s.thumbStore .word rd (s.reg 13#4 4 + zext nn * 4)

/-- LDR Rd,[SP,#nn] (R482). -/
def execTLdrSp (rd : LoReg) (nn : BitVec 8) (s : State) : Result :=
  s.thumbLoad .word rd (s.reg 13#4 4 + zext nn * 4)

/-- PUSH {Rlist}{LR} (R494). -/
def execTPush (lr : Bool) (list : BitVec 8) (s : State) : Result :=
  let full := stackList 14 lr list
  refuseIf (full == 0#16) .emptyRegisterList
    (s.storeBlock s.cpsr.mode 2 (blockOf true false true 13#4 full (s.reg 13#4 4)))

/-- POP {Rlist}{PC} (R495). -/
def execTPop (pc : Bool) (list : BitVec 8) (s : State) : Result :=
  let full := stackList 15 pc list
  refuseIf (full == 0#16) .emptyRegisterList
    (s.loadBlock s.cpsr.mode (blockOf false true true 13#4 full (s.reg 13#4 4)) (finishLoad full 2 alignHalf))

/-- STMIA Rb!,{Rlist} (R501). -/
def execTStmia (rb : LoReg) (list : BitVec 8) (s : State) : Result :=
  let full : BitVec 16 := place 16 0 list
  refuseIf (full == 0#16) .emptyRegisterList
    (s.storeBlock s.cpsr.mode 2 (blockOf false true true (lo rb) full (s.reg (lo rb) 4)))

/-- LDMIA Rb!,{Rlist} (R502). -/
def execTLdmia (rb : LoReg) (list : BitVec 8) (s : State) : Result :=
  let full : BitVec 16 := place 16 0 list
  refuseIf (full == 0#16) .emptyRegisterList
    (s.loadBlock s.cpsr.mode (blockOf false true true (lo rb) full (s.reg (lo rb) 4)) (finishLoad full 2 alignHalf))

end Sys2Proof.Machine
end

