-- ==== Sys2Proof/Machine/Dispatch.lean ====
section
/-! DEFINITION. The dispatch: one arm per constructor of Instr, each one direct call of its meaning. -/

namespace Sys2Proof.Machine

def exec (i : Instr) (s : State) : Host.Outcome State Fault Refusal :=
  match i with
  | .b c off => Sys2Proof.Machine.execB c off s
  | .bl c off => Sys2Proof.Machine.execBl c off s
  | .bx c rn => Sys2Proof.Machine.execBx c rn s
  | .swi c comment => Sys2Proof.Machine.execSwi c comment s
  | .undefined c hi lo => Sys2Proof.Machine.execUndefined c hi lo s
  | .andImm c sf rn rd o => Sys2Proof.Machine.execAndImm c sf rn rd o s
  | .andShImm c sf rn rd o => Sys2Proof.Machine.execAndShImm c sf rn rd o s
  | .andShReg c sf rn rd o => Sys2Proof.Machine.execAndShReg c sf rn rd o s
  | .eorImm c sf rn rd o => Sys2Proof.Machine.execEorImm c sf rn rd o s
  | .eorShImm c sf rn rd o => Sys2Proof.Machine.execEorShImm c sf rn rd o s
  | .eorShReg c sf rn rd o => Sys2Proof.Machine.execEorShReg c sf rn rd o s
  | .subImm c sf rn rd o => Sys2Proof.Machine.execSubImm c sf rn rd o s
  | .subShImm c sf rn rd o => Sys2Proof.Machine.execSubShImm c sf rn rd o s
  | .subShReg c sf rn rd o => Sys2Proof.Machine.execSubShReg c sf rn rd o s
  | .rsbImm c sf rn rd o => Sys2Proof.Machine.execRsbImm c sf rn rd o s
  | .rsbShImm c sf rn rd o => Sys2Proof.Machine.execRsbShImm c sf rn rd o s
  | .rsbShReg c sf rn rd o => Sys2Proof.Machine.execRsbShReg c sf rn rd o s
  | .addImm c sf rn rd o => Sys2Proof.Machine.execAddImm c sf rn rd o s
  | .addShImm c sf rn rd o => Sys2Proof.Machine.execAddShImm c sf rn rd o s
  | .addShReg c sf rn rd o => Sys2Proof.Machine.execAddShReg c sf rn rd o s
  | .adcImm c sf rn rd o => Sys2Proof.Machine.execAdcImm c sf rn rd o s
  | .adcShImm c sf rn rd o => Sys2Proof.Machine.execAdcShImm c sf rn rd o s
  | .adcShReg c sf rn rd o => Sys2Proof.Machine.execAdcShReg c sf rn rd o s
  | .sbcImm c sf rn rd o => Sys2Proof.Machine.execSbcImm c sf rn rd o s
  | .sbcShImm c sf rn rd o => Sys2Proof.Machine.execSbcShImm c sf rn rd o s
  | .sbcShReg c sf rn rd o => Sys2Proof.Machine.execSbcShReg c sf rn rd o s
  | .rscImm c sf rn rd o => Sys2Proof.Machine.execRscImm c sf rn rd o s
  | .rscShImm c sf rn rd o => Sys2Proof.Machine.execRscShImm c sf rn rd o s
  | .rscShReg c sf rn rd o => Sys2Proof.Machine.execRscShReg c sf rn rd o s
  | .tstImm c rn o => Sys2Proof.Machine.execTstImm c rn o s
  | .tstShImm c rn o => Sys2Proof.Machine.execTstShImm c rn o s
  | .tstShReg c rn o => Sys2Proof.Machine.execTstShReg c rn o s
  | .teqImm c rn o => Sys2Proof.Machine.execTeqImm c rn o s
  | .teqShImm c rn o => Sys2Proof.Machine.execTeqShImm c rn o s
  | .teqShReg c rn o => Sys2Proof.Machine.execTeqShReg c rn o s
  | .cmpImm c rn o => Sys2Proof.Machine.execCmpImm c rn o s
  | .cmpShImm c rn o => Sys2Proof.Machine.execCmpShImm c rn o s
  | .cmpShReg c rn o => Sys2Proof.Machine.execCmpShReg c rn o s
  | .cmnImm c rn o => Sys2Proof.Machine.execCmnImm c rn o s
  | .cmnShImm c rn o => Sys2Proof.Machine.execCmnShImm c rn o s
  | .cmnShReg c rn o => Sys2Proof.Machine.execCmnShReg c rn o s
  | .orrImm c sf rn rd o => Sys2Proof.Machine.execOrrImm c sf rn rd o s
  | .orrShImm c sf rn rd o => Sys2Proof.Machine.execOrrShImm c sf rn rd o s
  | .orrShReg c sf rn rd o => Sys2Proof.Machine.execOrrShReg c sf rn rd o s
  | .movImm c sf rd o => Sys2Proof.Machine.execMovImm c sf rd o s
  | .movShImm c sf rd o => Sys2Proof.Machine.execMovShImm c sf rd o s
  | .movShReg c sf rd o => Sys2Proof.Machine.execMovShReg c sf rd o s
  | .bicImm c sf rn rd o => Sys2Proof.Machine.execBicImm c sf rn rd o s
  | .bicShImm c sf rn rd o => Sys2Proof.Machine.execBicShImm c sf rn rd o s
  | .bicShReg c sf rn rd o => Sys2Proof.Machine.execBicShReg c sf rn rd o s
  | .mvnImm c sf rd o => Sys2Proof.Machine.execMvnImm c sf rd o s
  | .mvnShImm c sf rd o => Sys2Proof.Machine.execMvnShImm c sf rd o s
  | .mvnShReg c sf rd o => Sys2Proof.Machine.execMvnShReg c sf rd o s
  | .mul c sf rd rs rm => Sys2Proof.Machine.execMul c sf rd rs rm s
  | .mla c sf rd rn rs rm => Sys2Proof.Machine.execMla c sf rd rn rs rm s
  | .umull c sf rdHi rdLo rs rm => Sys2Proof.Machine.execUmull c sf rdHi rdLo rs rm s
  | .umlal c sf rdHi rdLo rs rm => Sys2Proof.Machine.execUmlal c sf rdHi rdLo rs rm s
  | .smull c sf rdHi rdLo rs rm => Sys2Proof.Machine.execSmull c sf rdHi rdLo rs rm s
  | .smlal c sf rdHi rdLo rs rm => Sys2Proof.Machine.execSmlal c sf rdHi rdLo rs rm s
  | .mrs c spsr rd => Sys2Proof.Machine.execMrs c spsr rd s
  | .msrReg c spsr fields rm => Sys2Proof.Machine.execMsrReg c spsr fields rm s
  | .msrImm c spsr fields o => Sys2Proof.Machine.execMsrImm c spsr fields o s
  | .ldrImmPre c up wb rn rd off => Sys2Proof.Machine.execLdrImmPre c up wb rn rd off s
  | .ldrImmPost c up rn rd off => Sys2Proof.Machine.execLdrImmPost c up rn rd off s
  | .ldrRegPre c up wb rn rd o => Sys2Proof.Machine.execLdrRegPre c up wb rn rd o s
  | .ldrRegPost c up rn rd o => Sys2Proof.Machine.execLdrRegPost c up rn rd o s
  | .ldrbImmPre c up wb rn rd off => Sys2Proof.Machine.execLdrbImmPre c up wb rn rd off s
  | .ldrbImmPost c up rn rd off => Sys2Proof.Machine.execLdrbImmPost c up rn rd off s
  | .ldrbRegPre c up wb rn rd o => Sys2Proof.Machine.execLdrbRegPre c up wb rn rd o s
  | .ldrbRegPost c up rn rd o => Sys2Proof.Machine.execLdrbRegPost c up rn rd o s
  | .strImmPre c up wb rn rd off => Sys2Proof.Machine.execStrImmPre c up wb rn rd off s
  | .strImmPost c up rn rd off => Sys2Proof.Machine.execStrImmPost c up rn rd off s
  | .strRegPre c up wb rn rd o => Sys2Proof.Machine.execStrRegPre c up wb rn rd o s
  | .strRegPost c up rn rd o => Sys2Proof.Machine.execStrRegPost c up rn rd o s
  | .strbImmPre c up wb rn rd off => Sys2Proof.Machine.execStrbImmPre c up wb rn rd off s
  | .strbImmPost c up rn rd off => Sys2Proof.Machine.execStrbImmPost c up rn rd off s
  | .strbRegPre c up wb rn rd o => Sys2Proof.Machine.execStrbRegPre c up wb rn rd o s
  | .strbRegPost c up rn rd o => Sys2Proof.Machine.execStrbRegPost c up rn rd o s
  | .ldrtImm c up rn rd off => Sys2Proof.Machine.execLdrtImm c up rn rd off s
  | .ldrtReg c up rn rd o => Sys2Proof.Machine.execLdrtReg c up rn rd o s
  | .ldrbtImm c up rn rd off => Sys2Proof.Machine.execLdrbtImm c up rn rd off s
  | .ldrbtReg c up rn rd o => Sys2Proof.Machine.execLdrbtReg c up rn rd o s
  | .strtImm c up rn rd off => Sys2Proof.Machine.execStrtImm c up rn rd off s
  | .strtReg c up rn rd o => Sys2Proof.Machine.execStrtReg c up rn rd o s
  | .strbtImm c up rn rd off => Sys2Proof.Machine.execStrbtImm c up rn rd off s
  | .strbtReg c up rn rd o => Sys2Proof.Machine.execStrbtReg c up rn rd o s
  | .strhReg c ix up rn rd rm => Sys2Proof.Machine.execStrhReg c ix up rn rd rm s
  | .strhImm c ix up rn rd off => Sys2Proof.Machine.execStrhImm c ix up rn rd off s
  | .ldrhReg c ix up rn rd rm => Sys2Proof.Machine.execLdrhReg c ix up rn rd rm s
  | .ldrhImm c ix up rn rd off => Sys2Proof.Machine.execLdrhImm c ix up rn rd off s
  | .ldrsbReg c ix up rn rd rm => Sys2Proof.Machine.execLdrsbReg c ix up rn rd rm s
  | .ldrsbImm c ix up rn rd off => Sys2Proof.Machine.execLdrsbImm c ix up rn rd off s
  | .ldrshReg c ix up rn rd rm => Sys2Proof.Machine.execLdrshReg c ix up rn rd rm s
  | .ldrshImm c ix up rn rd off => Sys2Proof.Machine.execLdrshImm c ix up rn rd off s
  | .stm c pre up wb rn list => Sys2Proof.Machine.execStm c pre up wb rn list s
  | .ldm c pre up wb rn list => Sys2Proof.Machine.execLdm c pre up wb rn list s
  | .ldmPcS c pre up wb rn list => Sys2Proof.Machine.execLdmPcS c pre up wb rn list s
  | .stmS c pre up wb rn list => Sys2Proof.Machine.execStmS c pre up wb rn list s
  | .ldmUserS c pre up wb rn list => Sys2Proof.Machine.execLdmUserS c pre up wb rn list s
  | .swp c rn rd rm => Sys2Proof.Machine.execSwp c rn rd rm s
  | .swpb c rn rd rm => Sys2Proof.Machine.execSwpb c rn rd rm s
  | .mrc c p op rd => Sys2Proof.Machine.execMrc c p op rd s
  | .mcr c p op rd => Sys2Proof.Machine.execMcr c p op rd s
  | .cdp c p cpopc cd cn cm cp => Sys2Proof.Machine.execCdp c p cpopc cd cn cm cp s
  | .ldc c pre up long wb rn cd p off => Sys2Proof.Machine.execLdc c pre up long wb rn cd p off s
  | .stc c pre up long wb rn cd p off => Sys2Proof.Machine.execStc c pre up long wb rn cd p off s
  | .tLslImm k rs rd => Sys2Proof.Machine.execTLslImm k rs rd s
  | .tLsrImm k rs rd => Sys2Proof.Machine.execTLsrImm k rs rd s
  | .tAsrImm k rs rd => Sys2Proof.Machine.execTAsrImm k rs rd s
  | .tAddReg rn rs rd => Sys2Proof.Machine.execTAddReg rn rs rd s
  | .tSubReg rn rs rd => Sys2Proof.Machine.execTSubReg rn rs rd s
  | .tAddImm3 nn rs rd => Sys2Proof.Machine.execTAddImm3 nn rs rd s
  | .tSubImm3 nn rs rd => Sys2Proof.Machine.execTSubImm3 nn rs rd s
  | .tMovImm8 rd nn => Sys2Proof.Machine.execTMovImm8 rd nn s
  | .tCmpImm8 rd nn => Sys2Proof.Machine.execTCmpImm8 rd nn s
  | .tAddImm8 rd nn => Sys2Proof.Machine.execTAddImm8 rd nn s
  | .tSubImm8 rd nn => Sys2Proof.Machine.execTSubImm8 rd nn s
  | .tAnd rs rd => Sys2Proof.Machine.execTAnd rs rd s
  | .tEor rs rd => Sys2Proof.Machine.execTEor rs rd s
  | .tLslReg rs rd => Sys2Proof.Machine.execTLslReg rs rd s
  | .tLsrReg rs rd => Sys2Proof.Machine.execTLsrReg rs rd s
  | .tAsrReg rs rd => Sys2Proof.Machine.execTAsrReg rs rd s
  | .tAdc rs rd => Sys2Proof.Machine.execTAdc rs rd s
  | .tSbc rs rd => Sys2Proof.Machine.execTSbc rs rd s
  | .tRor rs rd => Sys2Proof.Machine.execTRor rs rd s
  | .tTst rs rd => Sys2Proof.Machine.execTTst rs rd s
  | .tNeg rs rd => Sys2Proof.Machine.execTNeg rs rd s
  | .tCmpReg rs rd => Sys2Proof.Machine.execTCmpReg rs rd s
  | .tCmn rs rd => Sys2Proof.Machine.execTCmn rs rd s
  | .tOrr rs rd => Sys2Proof.Machine.execTOrr rs rd s
  | .tMul rs rd => Sys2Proof.Machine.execTMul rs rd s
  | .tBic rs rd => Sys2Proof.Machine.execTBic rs rd s
  | .tMvn rs rd => Sys2Proof.Machine.execTMvn rs rd s
  | .tAddHiDst rs rd => Sys2Proof.Machine.execTAddHiDst rs rd s
  | .tAddHiSrc rs rd => Sys2Proof.Machine.execTAddHiSrc rs rd s
  | .tCmpHiDst rs rd => Sys2Proof.Machine.execTCmpHiDst rs rd s
  | .tCmpHiSrc rs rd => Sys2Proof.Machine.execTCmpHiSrc rs rd s
  | .tMovHiDst rs rd => Sys2Proof.Machine.execTMovHiDst rs rd s
  | .tMovHiSrc rs rd => Sys2Proof.Machine.execTMovHiSrc rs rd s
  | .tBx rs => Sys2Proof.Machine.execTBx rs s
  | .tLdrPc rd nn => Sys2Proof.Machine.execTLdrPc rd nn s
  | .tStrReg ro rb rd => Sys2Proof.Machine.execTStrReg ro rb rd s
  | .tStrbReg ro rb rd => Sys2Proof.Machine.execTStrbReg ro rb rd s
  | .tLdrReg ro rb rd => Sys2Proof.Machine.execTLdrReg ro rb rd s
  | .tLdrbReg ro rb rd => Sys2Proof.Machine.execTLdrbReg ro rb rd s
  | .tStrhReg ro rb rd => Sys2Proof.Machine.execTStrhReg ro rb rd s
  | .tLdsbReg ro rb rd => Sys2Proof.Machine.execTLdsbReg ro rb rd s
  | .tLdrhReg ro rb rd => Sys2Proof.Machine.execTLdrhReg ro rb rd s
  | .tLdshReg ro rb rd => Sys2Proof.Machine.execTLdshReg ro rb rd s
  | .tStrImm nn rb rd => Sys2Proof.Machine.execTStrImm nn rb rd s
  | .tLdrImm nn rb rd => Sys2Proof.Machine.execTLdrImm nn rb rd s
  | .tStrbImm nn rb rd => Sys2Proof.Machine.execTStrbImm nn rb rd s
  | .tLdrbImm nn rb rd => Sys2Proof.Machine.execTLdrbImm nn rb rd s
  | .tStrhImm nn rb rd => Sys2Proof.Machine.execTStrhImm nn rb rd s
  | .tLdrhImm nn rb rd => Sys2Proof.Machine.execTLdrhImm nn rb rd s
  | .tStrSp rd nn => Sys2Proof.Machine.execTStrSp rd nn s
  | .tLdrSp rd nn => Sys2Proof.Machine.execTLdrSp rd nn s
  | .tAddPc rd nn => Sys2Proof.Machine.execTAddPc rd nn s
  | .tAddSp rd nn => Sys2Proof.Machine.execTAddSp rd nn s
  | .tSpAdd nn => Sys2Proof.Machine.execTSpAdd nn s
  | .tSpSub nn => Sys2Proof.Machine.execTSpSub nn s
  | .tPush lr list => Sys2Proof.Machine.execTPush lr list s
  | .tPop pc list => Sys2Proof.Machine.execTPop pc list s
  | .tStmia rb list => Sys2Proof.Machine.execTStmia rb list s
  | .tLdmia rb list => Sys2Proof.Machine.execTLdmia rb list s
  | .tBeq off => Sys2Proof.Machine.execTBeq off s
  | .tBne off => Sys2Proof.Machine.execTBne off s
  | .tBcs off => Sys2Proof.Machine.execTBcs off s
  | .tBcc off => Sys2Proof.Machine.execTBcc off s
  | .tBmi off => Sys2Proof.Machine.execTBmi off s
  | .tBpl off => Sys2Proof.Machine.execTBpl off s
  | .tBvs off => Sys2Proof.Machine.execTBvs off s
  | .tBvc off => Sys2Proof.Machine.execTBvc off s
  | .tBhi off => Sys2Proof.Machine.execTBhi off s
  | .tBls off => Sys2Proof.Machine.execTBls off s
  | .tBge off => Sys2Proof.Machine.execTBge off s
  | .tBlt off => Sys2Proof.Machine.execTBlt off s
  | .tBgt off => Sys2Proof.Machine.execTBgt off s
  | .tBle off => Sys2Proof.Machine.execTBle off s
  | .tSwi comment => Sys2Proof.Machine.execTSwi comment s
  | .tB off => Sys2Proof.Machine.execTB off s
  | .tBlFirst nn => Sys2Proof.Machine.execTBlFirst nn s
  | .tBlSecond nn => Sys2Proof.Machine.execTBlSecond nn s

end Sys2Proof.Machine
end

