-- ==== Sys2Proof/Machine/Hazards.lean ====
section
/-! DEFINITION. The two hazards that the spec refuses: the stale-fetch window (spec/20_memory.md R84) and a banked
register read right after an LDM of the user bank (spec/70_reset_and_hazards.md R620). -/

namespace Sys2Proof.Machine

/-- Whether two byte ranges of 32bit addresses share a byte; a range may wrap round 2^32. -/
def overlaps (a : Word) (n : Nat) (b : Word) (m : Nat) : Bool :=
  decide ((b - a).toNat < n) || decide ((a - b).toNat < m)

/-- The instruction of `size` bytes at pc was stored to by one of the two instructions before it, with no write to the
PC since (R84). -/
def State.stale (s : State) (size : Nat) : Bool :=
  (s.window.last ++ s.window.prev).any fun w => overlaps w.addr w.len s.pc size

/-- The window as the next instruction finds it: its stores come first, those before the last instruction drop out. -/
def StoreWindow.shift (w : StoreWindow) : StoreWindow := ⟨[], w.last⟩

/-- The registers an instruction reads in the current mode's bank when its condition passes. R0..R7 are never banked,
so a THUMB instruction names here only the others; a coprocessor instruction reads only when its coprocessor is
attached (R350). -/
def readsRegs (coprocs : List (BitVec 4)) : Instr → List Reg
  | .bx _ rn => [rn]
  | .andImm _ _ rn _ _ | .eorImm _ _ rn _ _ | .subImm _ _ rn _ _ | .rsbImm _ _ rn _ _ | .addImm _ _ rn _ _
  | .adcImm _ _ rn _ _ | .sbcImm _ _ rn _ _ | .rscImm _ _ rn _ _ | .orrImm _ _ rn _ _ | .bicImm _ _ rn _ _
  | .tstImm _ rn _ | .teqImm _ rn _ | .cmpImm _ rn _ | .cmnImm _ rn _ => [rn]
  | .andShImm _ _ rn _ o | .eorShImm _ _ rn _ o | .subShImm _ _ rn _ o | .rsbShImm _ _ rn _ o
  | .addShImm _ _ rn _ o | .adcShImm _ _ rn _ o | .sbcShImm _ _ rn _ o | .rscShImm _ _ rn _ o
  | .orrShImm _ _ rn _ o | .bicShImm _ _ rn _ o
  | .tstShImm _ rn o | .teqShImm _ rn o | .cmpShImm _ rn o | .cmnShImm _ rn o => [rn, o.rm]
  | .andShReg _ _ rn _ o | .eorShReg _ _ rn _ o | .subShReg _ _ rn _ o | .rsbShReg _ _ rn _ o
  | .addShReg _ _ rn _ o | .adcShReg _ _ rn _ o | .sbcShReg _ _ rn _ o | .rscShReg _ _ rn _ o
  | .orrShReg _ _ rn _ o | .bicShReg _ _ rn _ o
  | .tstShReg _ rn o | .teqShReg _ rn o | .cmpShReg _ rn o | .cmnShReg _ rn o => [rn, o.rm, o.rs]
  | .movShImm _ _ _ o | .mvnShImm _ _ _ o => [o.rm]
  | .movShReg _ _ _ o | .mvnShReg _ _ _ o => [o.rm, o.rs]
  | .mul _ _ _ rs rm => [rs, rm]
  | .mla _ _ _ rn rs rm => [rn, rs, rm]
  | .umull _ _ _ _ rs rm | .smull _ _ _ _ rs rm => [rs, rm]
  | .umlal _ _ hi lo rs rm | .smlal _ _ hi lo rs rm => [hi, lo, rs, rm]
  | .msrReg _ _ _ rm => [rm]
  | .ldrImmPre _ _ _ rn _ _ | .ldrbImmPre _ _ _ rn _ _ => [rn]
  | .ldrImmPost _ _ rn _ _ | .ldrbImmPost _ _ rn _ _ | .ldrtImm _ _ rn _ _ | .ldrbtImm _ _ rn _ _ => [rn]
  | .strImmPre _ _ _ rn rd _ | .strbImmPre _ _ _ rn rd _ => [rn, rd]
  | .strImmPost _ _ rn rd _ | .strbImmPost _ _ rn rd _ | .strtImm _ _ rn rd _ | .strbtImm _ _ rn rd _ => [rn, rd]
  | .ldrRegPre _ _ _ rn _ o | .ldrbRegPre _ _ _ rn _ o => [rn, o.rm]
  | .ldrRegPost _ _ rn _ o | .ldrbRegPost _ _ rn _ o | .ldrtReg _ _ rn _ o | .ldrbtReg _ _ rn _ o => [rn, o.rm]
  | .strRegPre _ _ _ rn rd o | .strbRegPre _ _ _ rn rd o => [rn, rd, o.rm]
  | .strRegPost _ _ rn rd o | .strbRegPost _ _ rn rd o | .strtReg _ _ rn rd o | .strbtReg _ _ rn rd o =>
    [rn, rd, o.rm]
  | .strhReg _ _ _ rn rd rm => [rn, rd, rm]
  | .strhImm _ _ _ rn rd _ => [rn, rd]
  | .ldrhReg _ _ _ rn _ rm | .ldrsbReg _ _ _ rn _ rm | .ldrshReg _ _ _ rn _ rm => [rn, rm]
  | .ldrhImm _ _ _ rn _ _ | .ldrsbImm _ _ _ rn _ _ | .ldrshImm _ _ _ rn _ _ => [rn]
  | .stm _ _ _ _ rn list => rn :: listed list
  | .ldm _ _ _ _ rn _ | .stmS _ _ _ _ rn _ => [rn]
  | .ldmPcS _ _ _ _ rn _ | .ldmUserS _ _ _ _ rn _ => [rn]
  | .swp _ rn _ rm | .swpb _ rn _ rm => [rn, rm]
  | .mcr _ p _ rd => if coprocs.contains p then [rd] else []
  | .ldc _ _ _ _ _ rn _ p _ | .stc _ _ _ _ _ rn _ p _ => if coprocs.contains p then [rn] else []
  | .tAddHiDst rs rd | .tCmpHiDst rs rd => [hi rd, rs]
  | .tMovHiDst rs _ => [rs]
  | .tAddHiSrc rs _ | .tCmpHiSrc rs _ | .tMovHiSrc rs _ => [hi rs]
  | .tBx rs => [rs]
  | .tStrSp .. | .tLdrSp .. | .tAddSp .. | .tSpAdd .. | .tSpSub .. | .tPop .. => [13#4]
  | .tPush lr _ => if lr then [13#4, 14#4] else [13#4]
  | .tBlSecond _ => [14#4]
  | .b .. | .bl .. | .swi .. | .undefined .. | .movImm .. | .mvnImm .. | .mrs .. | .msrImm .. | .mrc .. | .cdp .. => []
  | .tLslImm .. | .tLsrImm .. | .tAsrImm .. | .tAddReg .. | .tSubReg .. | .tAddImm3 .. | .tSubImm3 ..
  | .tMovImm8 .. | .tCmpImm8 .. | .tAddImm8 .. | .tSubImm8 ..
  | .tAnd .. | .tEor .. | .tLslReg .. | .tLsrReg .. | .tAsrReg .. | .tAdc .. | .tSbc .. | .tRor .. | .tTst ..
  | .tNeg .. | .tCmpReg .. | .tCmn .. | .tOrr .. | .tMul .. | .tBic .. | .tMvn ..
  | .tLdrPc .. | .tStrReg .. | .tStrbReg .. | .tLdrReg .. | .tLdrbReg .. | .tStrhReg .. | .tLdsbReg ..
  | .tLdrhReg .. | .tLdshReg .. | .tStrImm .. | .tLdrImm .. | .tStrbImm .. | .tLdrbImm .. | .tStrhImm ..
  | .tLdrhImm .. | .tAddPc .. | .tStmia .. | .tLdmia ..
  | .tBeq .. | .tBne .. | .tBcs .. | .tBcc .. | .tBmi .. | .tBpl .. | .tBvs .. | .tBvc .. | .tBhi .. | .tBls ..
  | .tBge .. | .tBlt .. | .tBgt .. | .tBle .. | .tSwi .. | .tB .. | .tBlFirst .. => []

/-- The instruction reads a register banked in the current mode right after an LDM of the user bank (R620). -/
def State.bankHazard (s : State) (i : Instr) : Bool :=
  s.userLdm && (readsRegs s.platform.coprocs i).any (bankedIn s.cpsr.mode)

end Sys2Proof.Machine
end

