-- ==== Sys2Proof/Machine/Run.lean ====
section
/-! DEFINITION. The step in its parts: the inputs at the boundary, the fetch, the condition, the decoder, the hazards,
the meaning (spec/60_exceptions.md R566). -/

namespace Sys2Proof.Machine

/-- The refusal of a decode error. -/
def refusalOf : Reject → Refusal
  | .cond1111 => .cond1111
  | .unallocated => .unallocatedEncoding
  | .armv5 => .armv5Encoding
  | .mustBe => .mustBeField
  | .comparePForm => .comparePForm
  | .thumbReserved => .thumbReserved
  | .truncated => .unallocatedEncoding

/-- The inputs at this boundary: HIGH, HIGH and no reset when no sample is left (log 6). -/
def State.sample (s : State) : Inputs :=
  match s.inputs with
  | [] => ⟨false, .high, .high⟩
  | i :: _ => i

/-- The state with this boundary's sample consumed. -/
def State.sampled (s : State) : State := { s with inputs := s.inputs.tail }

/-- The width of an instruction in the current state (spec/30_encoding.md R100). -/
def State.fetchWidth (s : State) : Width := if s.cpsr.t then .half else .word

/-- The bytes of a fetched value, lowest address first. -/
def fetchedBytes (width : Width) (v : Word) : List Byte := (List.range (widthBytes width)).map (byteOf v)

/-- The state in which a meaning runs: the stale-fetch window moved on by one instruction and the user-LDM mark
cleared. -/
def State.executing (s : State) : State := { s with window := s.window.shift, userLdm := false }

/-- A decoded instruction: a name for what is no instruction, the bank hazard, else its meaning. -/
def State.runDecoded (s : State) : Decoded → Result
  | .error e => .refused (refusalOf e)
  | .ok i => if s.bankHazard i then .refused .bankedReadAfterUserLdm else exec i s.executing

/-- An ARM word: its condition is tested first and the rest not examined when it fails (R46, R47, R566). -/
def State.runArm (s : State) (w : Word) : Result :=
  match Cond.ofCode (w.extractLsb' 28 4) with
  | none => if s.platform.nvNeverExecutes then .next (s.executing.advance 4) else .refused .cond1111
  | some c =>
    if condPassed c s.cpsr.flags then s.runDecoded (decode false (fetchedBytes .word w))
    else .next (s.executing.advance 4)

/-- A fetched value in the current state. -/
def State.runFetched (s : State) (v : Word) : Result :=
  if s.cpsr.t then s.runDecoded (decode true (fetchedBytes .half v)) else s.runArm v

/-- The instruction at pc, no interrupt being taken (R551, R566; spec/20_memory.md R84). -/
def State.runInstruction (s : State) : Result :=
  if alignPc s.cpsr.t s.pc ≠ s.pc then .fault .pcMisaligned
  else if s.aborts .fetch s.userMode s.pc s.fetchWidth then .next (s.enter .prefetchAbort)
  else if s.stale (widthBytes s.fetchWidth) then .refused .staleFetch
  else
    let fetched := s.take s.pc s.fetchWidth
    fetched.2.runFetched fetched.1

/-- One step: reset, FIQ, IRQ, else the instruction at pc (R561 to R566). -/
def State.runStep (s : State) : Result :=
  let inp := s.sample
  if inp.reset then .next s.sampled.takeReset
  else if inp.nFIQ = .low ∧ s.cpsr.f = false then .next (s.sampled.enter .fiq)
  else if inp.nIRQ = .low ∧ s.cpsr.i = false then .next (s.sampled.enter .irq)
  else s.sampled.runInstruction

/-- An instruction of `nbits` bits stored at pc, in the state that decodes it, with nothing in the way of its fetch. -/
def State.placeInstruction (s : State) (nbits w : Nat) : State :=
  let t := decide (nbits ≤ 16)
  let pc := alignPc t s.pc
  let v : Word := BitVec.ofNat 32 w
  { s with
    pc := pc
    cpsr := { s.cpsr with t := t }
    mem := s.mem.write pc (if t then .half else .word) v
    window := ⟨[], []⟩
    userLdm := false
    inputs := []
    platform := { s.platform with
      aborts := s.platform.aborts.filter fun r => !(r.kind == .fetch && inRange r.first r.last pc)
      devices := s.platform.devices.filter fun r => !inRange r.first r.last pc } }

end Sys2Proof.Machine
end

