-- ==== Sys2Proof/Machine/Step.lean ====
section
/-! DEFINITION. One step of the machine, and an instruction placed where the next step fetches. -/

namespace Sys2Proof.Machine

/-- One step (spec/60_exceptions.md R566). -/
def step (s : State) : Host.Outcome State Fault Refusal := s.runStep

/-- `s` with an instruction of `nbits` bits stored where `step` fetches its next instruction (log 21). -/
def State.withFetchWord (s : State) (nbits w : Nat) : State := s.placeInstruction nbits w

end Sys2Proof.Machine
end

