-- ==== Sys2Proof/Safety.lean ====
section
/-! DEFINITION. What a run preserves, and the words the statements are written in: frames, the exact results of the
sixteen opcodes, the operands and addresses of each instruction by its constructor's name. -/

namespace Sys2Proof.Machine

/-! ## Invariant -/

/-- The PC is a multiple of the instruction size of the current state (spec/10_state.md R26). -/
def pcAligned (s : State) : Prop := if s.cpsr.t then s.pc.toNat % 2 = 0 else s.pc.toNat % 4 = 0

/-- What every step keeps: memory in canonical form, the PC aligned. -/
def Invariant (s : State) : Prop := s.mem.wf = true ∧ pcAligned s

/-! ## Frames -/

/-- Every byte of memory reads as before. -/
def SameMemory (s t : State) : Prop := ∀ a : Nat, t.mem.get a = s.mem.get a

/-- Every byte outside the `n` bytes from `a` reads as before. -/
def SameMemoryOutside (s t : State) (a n : Nat) : Prop := ∀ b : Nat, b < a ∨ a + n ≤ b → t.mem.get b = s.mem.get b

/-- The stores made from `s` to `t` stand in the stale-fetch window before those of `s`, and the bytes they name take in
every byte of memory that has changed (spec/20_memory.md R84). -/
def NotesStores (s t : State) : Prop :=
  t.window.prev = s.window.prev ∧ ∃ l : List Span, t.window.last = l ++ s.window.last ∧
    ∀ a : Nat, t.mem.get a ≠ s.mem.get a → ∃ w : Span, w ∈ l ∧ w.addr.toNat ≤ a ∧ a < w.addr.toNat + w.len

/-- Everything beside the general registers, the PC, the CPSR, memory, the stale-fetch window and the free-value
counter is as before. -/
def SameRest (s t : State) : Prop :=
  t.spsrs = s.spsrs ∧ t.platform = s.platform ∧ t.inputs = s.inputs ∧ t.deviceLog = s.deviceLog ∧
    t.coprocLog = s.coprocLog ∧ t.userLdm = s.userLdm

/-- No register of any bank but the one that `x[rd]` names is changed, and that one holds `v`; no register is when
`rd` is R15. -/
def WritesReg (s t : State) (rd : Reg) (v : Word) : Prop :=
  ∀ g : GReg, t.regs.get g = if physical s.cpsr.mode rd = some g then v else s.regs.get g

/-- No general register is changed. -/
def SameRegs (s t : State) : Prop := ∀ g : GReg, t.regs.get g = s.regs.get g

/-- `x[rd]` holds `v`; the base `x[rn]` holds `idx` where it is written back; no other register is changed. -/
def WritesRegAndBase (s t : State) (rd : Reg) (v : Word) (rn : Reg) (wb : Bool) (idx : Word) : Prop :=
  ∀ g : GReg, t.regs.get g =
    if physical s.cpsr.mode rd = some g then v
    else if wb = true ∧ physical s.cpsr.mode rn = some g then idx
    else s.regs.get g

/-- The base `x[rn]` holds `idx` where it is written back; no other register is changed. -/
def WritesBase (s t : State) (rn : Reg) (wb : Bool) (idx : Word) : Prop :=
  ∀ g : GReg, t.regs.get g = if wb = true ∧ physical s.cpsr.mode rn = some g then idx else s.regs.get g

/-- An access of `addr`, made known to the platform as `ea`, that reaches RAM: not aborted, no device
(spec/20_memory.md R75, R77, spec/44_arm_single_transfer.md R264). -/
def ReachesRam (s : State) (kind : AccessKind) (user : Bool) (ea addr : Word) (width : Width) : Prop :=
  s.aborts kind user ea width = false ∧ s.isDevice addr = false

/-- The bytes from `addr` hold the low bytes of `v`, little endian (spec/20_memory.md R61). -/
def Holds (t : State) (addr : Word) (width : Width) (v : Word) : Prop :=
  ∀ k : Nat, k < widthBytes width → t.mem.get (addr.toNat + k) = v.extractLsb' (8 * k) 8

/-- An exception entry as the state after it shows it (spec/60_exceptions.md R545, R547): R14 and SPSR of the new
mode, the CPSR, the PC; nothing else. -/
def Entered (s t : State) (m : Mode) (vector : Word) (setsF : Bool) (ret : Word) : Prop :=
  (∀ g : GReg, t.regs.get g = if g = linkReg m then ret else s.regs.get g) ∧
  (∀ m' : Mode, t.spsrs.get? m' = if m' = m then some s.cpsr.saved else s.spsrs.get? m') ∧
  t.cpsr = { flags := s.cpsr.flags, i := true, f := s.cpsr.f || setsF, t := false, mode := m } ∧
  t.pc = vector ∧ SameMemory s t ∧ t.platform = s.platform ∧ t.deviceLog = s.deviceLog ∧ t.coprocLog = s.coprocLog

/-! ## Data processing -/

/-- The sixteen opcodes (spec/30_encoding.md R103). -/
inductive AluOp where
  | and | eor | sub | rsb | add | adc | sbc | rsc | tst | teq | cmp | cmn | orr | mov | bic | mvn
  deriving DecidableEq, Repr

/-- The three forms of the second operand (spec/41_arm_alu.md R170). -/
inductive Op2Form where
  | imm (o : Op2Imm)
  | shImm (o : Op2ShImm)
  | shReg (o : Op2ShReg)
  deriving DecidableEq, Repr

/-- TST, TEQ, CMP, CMN write no register (spec/41_arm_alu.md R180). -/
def AluOp.compares : AluOp → Bool
  | .tst | .teq | .cmp | .cmn => true
  | .and | .eor | .sub | .rsb | .add | .adc | .sbc | .rsc | .orr | .mov | .bic | .mvn => false

/-- The instruction of an opcode and a form; the compares have no S bit and no Rd, MOV and MVN no Rn. -/
def AluOp.instr (op : AluOp) (c : Cond) (sf : Bool) (rn rd : Reg) : Op2Form → Instr
  | .imm o =>
    match op with
    | .and => .andImm c sf rn rd o
    | .eor => .eorImm c sf rn rd o
    | .sub => .subImm c sf rn rd o
    | .rsb => .rsbImm c sf rn rd o
    | .add => .addImm c sf rn rd o
    | .adc => .adcImm c sf rn rd o
    | .sbc => .sbcImm c sf rn rd o
    | .rsc => .rscImm c sf rn rd o
    | .tst => .tstImm c rn o
    | .teq => .teqImm c rn o
    | .cmp => .cmpImm c rn o
    | .cmn => .cmnImm c rn o
    | .orr => .orrImm c sf rn rd o
    | .mov => .movImm c sf rd o
    | .bic => .bicImm c sf rn rd o
    | .mvn => .mvnImm c sf rd o
  | .shImm o =>
    match op with
    | .and => .andShImm c sf rn rd o
    | .eor => .eorShImm c sf rn rd o
    | .sub => .subShImm c sf rn rd o
    | .rsb => .rsbShImm c sf rn rd o
    | .add => .addShImm c sf rn rd o
    | .adc => .adcShImm c sf rn rd o
    | .sbc => .sbcShImm c sf rn rd o
    | .rsc => .rscShImm c sf rn rd o
    | .tst => .tstShImm c rn o
    | .teq => .teqShImm c rn o
    | .cmp => .cmpShImm c rn o
    | .cmn => .cmnShImm c rn o
    | .orr => .orrShImm c sf rn rd o
    | .mov => .movShImm c sf rd o
    | .bic => .bicShImm c sf rn rd o
    | .mvn => .mvnShImm c sf rd o
  | .shReg o =>
    match op with
    | .and => .andShReg c sf rn rd o
    | .eor => .eorShReg c sf rn rd o
    | .sub => .subShReg c sf rn rd o
    | .rsb => .rsbShReg c sf rn rd o
    | .add => .addShReg c sf rn rd o
    | .adc => .adcShReg c sf rn rd o
    | .sbc => .sbcShReg c sf rn rd o
    | .rsc => .rscShReg c sf rn rd o
    | .tst => .tstShReg c rn o
    | .teq => .teqShReg c rn o
    | .cmp => .cmpShReg c rn o
    | .cmn => .cmnShReg c rn o
    | .orr => .orrShReg c sf rn rd o
    | .mov => .movShReg c sf rd o
    | .bic => .bicShReg c sf rn rd o
    | .mvn => .mvnShReg c sf rd o

/-- The shift register of a form is not R15 (spec/41_arm_alu.md R173). -/
def Op2Form.allowed : Op2Form → Prop
  | .imm _ | .shImm _ => True
  | .shReg o => o.rs ≠ 15#4

/-- The first operand: R15 reads pc+12 in the shift-by-register form, else pc+8 (spec/41_arm_alu.md R175). -/
def Op2Form.first (f : Op2Form) (rn : Reg) (s : State) : Word :=
  match f with
  | .imm _ | .shImm _ => s.reg rn 8
  | .shReg _ => s.reg rn 12

/-- The second operand and the shifter carry (spec/41_arm_alu.md R170). -/
def Op2Form.second (f : Op2Form) (s : State) : Shifted :=
  match f with
  | .imm o => op2Imm s.cpsr.flags.c o
  | .shImm o => shiftImm s.cpsr.flags.c o.type (s.reg o.rm 8) o.amount
  | .shReg o => shiftReg s.cpsr.flags.c o.type (s.reg o.rm 12) ((s.reg o.rs 12).extractLsb' 0 8)

/-- The result of an opcode, in 32bit arithmetic: `a` is Rn, `b` is Op2, `cy` is C (spec/41_arm_alu.md R190 to R205). -/
def AluOp.result (op : AluOp) (a b : Word) (cy : Bool) : Word :=
  match op with
  | .and | .tst => a &&& b
  | .eor | .teq => a ^^^ b
  | .sub | .cmp => a - b
  | .rsb => b - a
  | .add | .cmn => a + b
  | .adc => a + b + BitVec.ofNat 32 cy.toNat
  | .sbc => a - b + BitVec.ofNat 32 cy.toNat - 1
  | .rsc => b - a + BitVec.ofNat 32 cy.toNat - 1
  | .orr => a ||| b
  | .mov => b
  | .bic => a &&& ~~~b
  | .mvn => ~~~b

/-- C after an opcode with S=1: the shifter's for the logical ones, the carry out of an addition, no borrow of a
subtraction (spec/41_arm_alu.md R181, R182, R183). -/
def AluOp.carry (op : AluOp) (a b : Word) (cy sc : Bool) : Bool :=
  match op with
  | .and | .eor | .tst | .teq | .orr | .mov | .bic | .mvn => sc
  | .add | .cmn => decide (2 ^ 32 ≤ a.toNat + b.toNat)
  | .adc => decide (2 ^ 32 ≤ a.toNat + b.toNat + cy.toNat)
  | .sub | .cmp => decide (b.toNat ≤ a.toNat)
  | .rsb => decide (a.toNat ≤ b.toNat)
  | .sbc => decide (b.toNat + 1 ≤ a.toNat + cy.toNat)
  | .rsc => decide (a.toNat + 1 ≤ b.toNat + cy.toNat)

/-- A signed sum outside 32 bits. -/
def outOfRange (x : Int) : Bool := decide (x < -2147483648) || decide (2147483648 ≤ x)

/-- V after an opcode with S=1: kept by the logical ones, else the exact signed result leaves 32 bits
(spec/41_arm_alu.md R181, R182, R183). -/
def AluOp.overflow (op : AluOp) (a b : Word) (cy v : Bool) : Bool :=
  match op with
  | .and | .eor | .tst | .teq | .orr | .mov | .bic | .mvn => v
  | .add | .cmn => outOfRange (a.toInt + b.toInt)
  | .adc => outOfRange (a.toInt + b.toInt + cy.toNat)
  | .sub | .cmp => outOfRange (a.toInt - b.toInt)
  | .rsb => outOfRange (b.toInt - a.toInt)
  | .sbc => outOfRange (a.toInt - b.toInt + cy.toNat - 1)
  | .rsc => outOfRange (b.toInt - a.toInt + cy.toNat - 1)

/-- The flags of an opcode with S=1. -/
def AluOp.flags (op : AluOp) (old : Nzcv) (a b : Word) (sc : Bool) : Nzcv :=
  { n := (op.result a b old.c).getLsbD 31
    z := decide (op.result a b old.c = 0#32)
    c := op.carry a b old.c sc
    v := op.overflow a b old.c old.v }

/-! ## Single transfers -/

/-- LDR, LDRB, STR, STRB (spec/44_arm_single_transfer.md). -/
inductive SingleOp where
  | ldr | ldrb | str | strb
  deriving DecidableEq, Repr

/-- The four address forms and the two of the T variants (spec/44_arm_single_transfer.md R261, R263). -/
inductive SingleForm where
  | immPre (wb : Bool) (off : BitVec 12)
  | immPost (off : BitVec 12)
  | regPre (wb : Bool) (o : Op2ShImm)
  | regPost (o : Op2ShImm)
  | immT (off : BitVec 12)
  | regT (o : Op2ShImm)
  deriving DecidableEq, Repr

/-- The instruction of an operation and a form. -/
def SingleOp.instr (op : SingleOp) (c : Cond) (up : Bool) (rn rd : Reg) : SingleForm → Instr
  | .immPre wb off =>
    match op with
    | .ldr => .ldrImmPre c up wb rn rd off
    | .ldrb => .ldrbImmPre c up wb rn rd off
    | .str => .strImmPre c up wb rn rd off
    | .strb => .strbImmPre c up wb rn rd off
  | .immPost off =>
    match op with
    | .ldr => .ldrImmPost c up rn rd off
    | .ldrb => .ldrbImmPost c up rn rd off
    | .str => .strImmPost c up rn rd off
    | .strb => .strbImmPost c up rn rd off
  | .regPre wb o =>
    match op with
    | .ldr => .ldrRegPre c up wb rn rd o
    | .ldrb => .ldrbRegPre c up wb rn rd o
    | .str => .strRegPre c up wb rn rd o
    | .strb => .strbRegPre c up wb rn rd o
  | .regPost o =>
    match op with
    | .ldr => .ldrRegPost c up rn rd o
    | .ldrb => .ldrbRegPost c up rn rd o
    | .str => .strRegPost c up rn rd o
    | .strb => .strbRegPost c up rn rd o
  | .immT off =>
    match op with
    | .ldr => .ldrtImm c up rn rd off
    | .ldrb => .ldrbtImm c up rn rd off
    | .str => .strtImm c up rn rd off
    | .strb => .strbtImm c up rn rd off
  | .regT o =>
    match op with
    | .ldr => .ldrtReg c up rn rd o
    | .ldrb => .ldrbtReg c up rn rd o
    | .str => .strtReg c up rn rd o
    | .strb => .strbtReg c up rn rd o

/-- The offset: 12 bits, or a register shifted by an immediate (spec/44_arm_single_transfer.md R260). -/
def SingleForm.offset (f : SingleForm) (s : State) : Word :=
  match f with
  | .immPre _ off | .immPost off | .immT off => zext off
  | .regPre _ o | .regPost o | .regT o => (shiftImm s.cpsr.flags.c o.type (s.reg o.rm 8) o.amount).value

/-- `idx` (spec/44_arm_single_transfer.md R261). -/
def SingleForm.idx (f : SingleForm) (up : Bool) (rn : Reg) (s : State) : Word :=
  if up then s.reg rn 8 + f.offset s else s.reg rn 8 - f.offset s

/-- The base is written back: always when post-indexed, with W=1 when pre-indexed (R261). -/
def SingleForm.wb : SingleForm → Bool
  | .immPre wb _ | .regPre wb _ => wb
  | .immPost _ | .regPost _ | .immT _ | .regT _ => true

/-- `ea`: `idx` when pre-indexed, else the base (R261). -/
def SingleForm.ea (f : SingleForm) (up : Bool) (rn : Reg) (s : State) : Word :=
  match f with
  | .immPre _ _ | .regPre _ _ => f.idx up rn s
  | .immPost _ | .regPost _ | .immT _ | .regT _ => s.reg rn 8

/-- The access is not privileged: in User mode, and always for the T forms (R263). -/
def SingleForm.user (f : SingleForm) (s : State) : Bool :=
  match f with
  | .immPre _ _ | .immPost _ | .regPre _ _ | .regPost _ => s.userMode
  | .immT _ | .regT _ => true

/-- The operand restrictions: no R15 as offset register, write-back neither to Rd nor to R15 (R260, R262). -/
def SingleForm.allowed (f : SingleForm) (rn rd : Reg) : Prop :=
  (match f with
   | .immPre _ _ | .immPost _ | .immT _ => True
   | .regPre _ o | .regPost o | .regT o => o.rm ≠ 15#4) ∧
  (f.wb = true → rn ≠ rd ∧ rn ≠ 15#4)

/-- The width of the access. -/
def SingleOp.width : SingleOp → Width
  | .ldr | .str => .word
  | .ldrb | .strb => .byte

/-- The address sent to memory: a word's is rounded down (spec/20_memory.md R64, R65). -/
def SingleOp.address (op : SingleOp) (ea : Word) : Word :=
  match op with
  | .ldr | .str => alignWord ea
  | .ldrb | .strb => ea

/-- What a load delivers: the word at the rounded-down address rotated right by 8 bits for each byte it was rounded
by (spec/20_memory.md R65), or the byte zero-extended. -/
def SingleOp.loaded (op : SingleOp) (s : State) (ea : Word) : Word :=
  match op with
  | .ldr | .str => (s.mem.read (alignWord ea) .word).rotateRight (8 * (ea.toNat % 4))
  | .ldrb | .strb => (s.mem.get ea.toNat).setWidth 32

/-! ## Halfword and signed transfers -/

/-- The two offsets (spec/45_arm_halfword_transfer.md R290). -/
inductive HalfForm where
  | reg (rm : Reg)
  | imm (off : BitVec 8)
  deriving DecidableEq, Repr

/-- The three loads (spec/45_arm_halfword_transfer.md). -/
inductive HalfLoad where
  | ldrh | ldrsb | ldrsh
  deriving DecidableEq, Repr

/-- The instruction of a halfword load. -/
def HalfLoad.instr (op : HalfLoad) (c : Cond) (ix : HalfIndex) (up : Bool) (rn rd : Reg) : HalfForm → Instr
  | .reg rm =>
    match op with
    | .ldrh => .ldrhReg c ix up rn rd rm
    | .ldrsb => .ldrsbReg c ix up rn rd rm
    | .ldrsh => .ldrshReg c ix up rn rd rm
  | .imm off =>
    match op with
    | .ldrh => .ldrhImm c ix up rn rd off
    | .ldrsb => .ldrsbImm c ix up rn rd off
    | .ldrsh => .ldrshImm c ix up rn rd off

/-- STRH. -/
def strhInstr (c : Cond) (ix : HalfIndex) (up : Bool) (rn rd : Reg) : HalfForm → Instr
  | .reg rm => .strhReg c ix up rn rd rm
  | .imm off => .strhImm c ix up rn rd off

/-- `idx` (spec/45_arm_halfword_transfer.md R291). -/
def HalfForm.idx (f : HalfForm) (up : Bool) (rn : Reg) (s : State) : Word :=
  let off := match f with
    | .reg rm => s.reg rm 8
    | .imm off => zext off
  if up then s.reg rn 8 + off else s.reg rn 8 - off

/-- `ea` (spec/45_arm_halfword_transfer.md R291). -/
def HalfForm.ea (f : HalfForm) (ix : HalfIndex) (up : Bool) (rn : Reg) (s : State) : Word :=
  match ix with
  | .pre _ => f.idx up rn s
  | .post => s.reg rn 8

/-- The operand restrictions (spec/45_arm_halfword_transfer.md R290, R292). -/
def HalfForm.allowed (f : HalfForm) (ix : HalfIndex) (rn rd : Reg) : Prop :=
  (match f with
   | .reg rm => rm ≠ 15#4
   | .imm _ => True) ∧
  (ix.writesBack = true → rn ≠ rd ∧ rn ≠ 15#4)

/-- The width read; LDRSH of an odd address reads a byte (spec/20_memory.md R67). -/
def HalfLoad.width (op : HalfLoad) (ea : Word) : Width :=
  match op with
  | .ldrh => .half
  | .ldrsb => .byte
  | .ldrsh => if ea.toNat % 2 = 1 then .byte else .half

/-- The address read (spec/20_memory.md R66, R67). -/
def HalfLoad.address (op : HalfLoad) (ea : Word) : Word :=
  match op with
  | .ldrh => alignHalf ea
  | .ldrsb | .ldrsh => ea

/-- What a halfword load delivers (spec/20_memory.md R66, R67): the halfword zero-extended, of an odd address rotated
right by 8; the byte or the halfword sign-extended. -/
def HalfLoad.loaded (op : HalfLoad) (s : State) (ea : Word) : Word :=
  let byteAt (a : Nat) : Byte := s.mem.get a
  match op with
  | .ldrh =>
    if ea.toNat % 2 = 1 then byteAt (ea.toNat - 1) ++ 0#16 ++ byteAt ea.toNat
    else 0#16 ++ byteAt (ea.toNat + 1) ++ byteAt ea.toNat
  | .ldrsb => (byteAt ea.toNat).signExtend 32
  | .ldrsh =>
    if ea.toNat % 2 = 1 then (byteAt ea.toNat).signExtend 32
    else (byteAt (ea.toNat + 1) ++ byteAt ea.toNat).signExtend 32

/-! ## Block transfers -/

/-- How many registers below `i` a list holds. -/
def rank (list : BitVec 16) (i : Nat) : Nat := ((List.range i).filter fun k => list.getLsbD k).length

/-- A block transfer as the statements see it: the bank of the list, the base register, whether it is written back,
the list, the first address, the new base, the instruction's bytes. -/
structure BlockView where
  bank : Mode
  base : Reg
  wb : Bool
  list : BitVec 16
  start : Word
  newBase : Word
  size : Word

/-- The addresses of LDM and STM (spec/46_arm_block_transfer.md R312). -/
def armBlockView (s : State) (bank : Mode) (pre up wb : Bool) (rn : Reg) (list : BitVec 16) : BlockView :=
  let base := s.reg rn 8
  let bytes : Word := BitVec.ofNat 32 (4 * rank list 16)
  { bank := bank, base := rn, wb := wb, list := list
    start :=
      if up then (if pre then base + 4 else base) else (if pre then base - bytes else base - bytes + 4)
    newBase := if up then base + bytes else base - bytes
    size := 4 }

/-- STM, STM^, PUSH, STMIA as block transfers (spec/46_arm_block_transfer.md R314, R318,
spec/49_thumb_memory_branch.md R494, R501); none for every other instruction. -/
def storeView (s : State) : Instr → Option BlockView
  | .stm _ pre up wb rn list => some (armBlockView s s.cpsr.mode pre up wb rn list)
  | .stmS _ pre up _ rn list => some (armBlockView s .usr pre up false rn list)
  | .tPush lr list =>
    let full : BitVec 16 := BitVec.ofNat 16 (list.toNat + 2 ^ 14 * lr.toNat)
    let sp := s.reg 13#4 4
    let start := sp - BitVec.ofNat 32 (4 * rank full 16)
    some { bank := s.cpsr.mode, base := 13#4, wb := true, list := full, start := start, newBase := start, size := 2 }
  | .tStmia rb list =>
    let base := s.reg (lo rb) 4
    some { bank := s.cpsr.mode, base := lo rb, wb := true, list := list.setWidth 16, start := base,
           newBase := base + BitVec.ofNat 32 (4 * rank (list.setWidth 16) 16), size := 2 }
  | _ => none

/-- LDM, LDM^ without R15, POP, LDMIA as block transfers (spec/46_arm_block_transfer.md R315, R318,
spec/49_thumb_memory_branch.md R495, R502); none for every other instruction. -/
def loadView (s : State) : Instr → Option BlockView
  | .ldm _ pre up wb rn list => some (armBlockView s s.cpsr.mode pre up wb rn list)
  | .ldmUserS _ pre up _ rn list => some (armBlockView s .usr pre up false rn (list.setWidth 16))
  | .tPop pc list =>
    let full : BitVec 16 := BitVec.ofNat 16 (list.toNat + 2 ^ 15 * pc.toNat)
    let sp := s.reg 13#4 4
    some { bank := s.cpsr.mode, base := 13#4, wb := true, list := full, start := sp,
           newBase := sp + BitVec.ofNat 32 (4 * rank full 16), size := 2 }
  | .tLdmia rb list =>
    let base := s.reg (lo rb) 4
    some { bank := s.cpsr.mode, base := lo rb, wb := true, list := list.setWidth 16, start := base,
           newBase := base + BitVec.ofNat 32 (4 * rank (list.setWidth 16) 16), size := 2 }
  | _ => none

/-- The address of register i's word: one word up for each listed register below it, rounded down
(spec/46_arm_block_transfer.md R312). -/
def BlockView.address (b : BlockView) (i : Nat) : Word := alignWord (b.start + BitVec.ofNat 32 (4 * rank b.list i))

/-- The value a store gives listed register i: R15 is pc+12 (R316); a base that is written back is stored old when it
is the lowest listed, else new (R319). -/
def BlockView.stored (b : BlockView) (s : State) (i : Reg) : Word :=
  if b.wb = true ∧ i = b.base ∧ rank b.list i.toNat ≠ 0 then b.newBase else s.regIn b.bank i 12

/-- Every word of the transfer reaches RAM, with the privilege of the current mode also for a user bank transfer
(DESIGN CHOICE, log 7). -/
def BlockView.ram (b : BlockView) (s : State) (kind : AccessKind) : Prop :=
  ∀ i : Nat, i < 16 → b.list.getLsbD i = true → ReachesRam s kind s.userMode (b.address i) (b.address i) .word

/-- What a load leaves in the physical registers: the word of each listed register other than R15 in the bank of the
list; the new base where the form writes back and does not list the base; nothing else is changed
(spec/46_arm_block_transfer.md R315, R319). -/
def BlockView.loadedRegs (b : BlockView) (s t : State) : Prop :=
  (∀ (i : Reg) (g : GReg), i ≠ 15#4 → b.list.getLsbD i.toNat = true → physical b.bank i = some g →
    t.regs.get g = s.mem.read (b.address i.toNat) .word) ∧
  (∀ g : GReg, b.wb = true → b.list.getLsbD b.base.toNat = false → physical s.cpsr.mode b.base = some g →
    t.regs.get g = b.newBase) ∧
  (∀ g : GReg, (∀ i : Reg, b.list.getLsbD i.toNat = true → physical b.bank i ≠ some g) →
    (b.wb = true → physical s.cpsr.mode b.base ≠ some g) → t.regs.get g = s.regs.get g)

/-! ## Data aborts -/

/-- The instruction ends in a Data Abort, entered from `u`, the state its effect up to there has left
(spec/60_exceptions.md R552, R546). -/
def DataAborts (i : Instr) (s u t : State) : Prop :=
  u.cpsr = s.cpsr ∧ u.pc = s.pc ∧ exec i s = .next t ∧ Entered u t .abt 0x00000010#32 false (s.pc + 8)

/-- Of the words `moved` of a transfer, `j` is the first whose access aborts; none lies in a device. -/
def FirstAbort (s : State) (kind : AccessKind) (moved : Nat → Prop) (address : Nat → Word) (j : Nat) : Prop :=
  moved j ∧ s.aborts kind s.userMode (address j) .word = true ∧
    (∀ k : Nat, moved k → k < j → s.aborts kind s.userMode (address k) .word = false) ∧
    ∀ k : Nat, moved k → s.isDevice (address k) = false

/-- The access to word `j` of a run is the first that aborts; none of the first `n` words lies in a device. -/
def AbortsAt (s : State) (kind : AccessKind) (address : Nat → Word) (j n : Nat) : Prop :=
  s.aborts kind s.userMode (address j) .word = true ∧
    (∀ k : Nat, k < j → s.aborts kind s.userMode (address k) .word = false) ∧
    ∀ k : Nat, k < n → s.isDevice (address k) = false

/-- What stores that end in an abort at word `j` leave: the words before it stored, each after it stored or not, no other
byte changed (spec/60_exceptions.md R552). -/
def StoredUpTo (s u : State) (moved : Nat → Prop) (address value : Nat → Word) (j : Nat) : Prop :=
  (∀ k : Nat, moved k → k < j → Holds u (address k) .word (value k)) ∧
  (∀ k : Nat, moved k → j < k → Holds u (address k) .word (value k) ∨
    ∀ n : Nat, n < 4 → u.mem.get ((address k).toNat + n) = s.mem.get ((address k).toNat + n)) ∧
  ∀ a : Nat, (∀ k : Nat, moved k → k ≠ j → a < (address k).toNat ∨ (address k).toNat + 4 ≤ a) →
    u.mem.get a = s.mem.get a

/-- What loads that end in an abort at register `j` leave in the registers: the base new or old, also when it is listed;
a listed register below `j` old or loaded; no register changed that is neither (spec/60_exceptions.md R552). -/
def BlockView.abortedRegs (b : BlockView) (s u : State) (j : Nat) : Prop :=
  (∀ g : GReg, physical s.cpsr.mode b.base = some g → u.regs.get g = if b.wb then b.newBase else s.regs.get g) ∧
  (∀ (i : Reg) (g : GReg), i.toNat < j → b.list.getLsbD i.toNat = true → physical b.bank i = some g →
    physical s.cpsr.mode b.base ≠ some g →
    u.regs.get g = s.regs.get g ∨ u.regs.get g = s.mem.read (b.address i.toNat) .word) ∧
  ∀ g : GReg, physical s.cpsr.mode b.base ≠ some g →
    (∀ i : Reg, b.list.getLsbD i.toNat = true → physical b.bank i ≠ some g) → u.regs.get g = s.regs.get g

/-- Every LDM, with R15 and without, POP and LDMIA; LDM^ with R15 in a mode with an SPSR
(spec/46_arm_block_transfer.md R317). -/
def loadsBlock (s : State) (i : Instr) (b : BlockView) : Prop :=
  loadView s i = some b ∨ s.spsrs.get? s.cpsr.mode ≠ none ∧
    ∃ (c : Cond) (pre up wb : Bool) (rn : Reg) (list : BitVec 15), i = .ldmPcS c pre up wb rn list ∧
      b = armBlockView s s.cpsr.mode pre up wb rn (BitVec.ofNat 16 (list.toNat + 2 ^ 15))

/-- The instruction is an LDM of the user bank, of which R620 of spec/70_reset_and_hazards.md speaks. -/
def marksUserLdm : Instr → Bool
  | .ldmUserS .. => true
  | _ => false

/-! ## LDC and STC -/

/-- `idx` of LDC and STC: the base plus or minus the offset times 4 (spec/47_arm_swap_coproc.md R355). -/
def coprocIdx (up : Bool) (rn : Reg) (off : BitVec 8) (s : State) : Word :=
  if up then s.reg rn 8 + BitVec.ofNat 32 (off.toNat * 4) else s.reg rn 8 - BitVec.ofNat 32 (off.toNat * 4)

/-- The address of word k of LDC and STC: `ea` + 4k, rounded down (spec/47_arm_swap_coproc.md R355,
spec/20_memory.md R64). -/
def coprocAddress (pre up : Bool) (rn : Reg) (off : BitVec 8) (s : State) (k : Nat) : Word :=
  alignWord ((if pre then coprocIdx up rn off s else s.reg rn 8) + BitVec.ofNat 32 (4 * k))

/-! ## Operand restrictions -/

/-- A shift register R15 (spec/41_arm_alu.md R173). -/
def shiftViolation (o : Op2ShReg) : Option Refusal := if o.rs = 15#4 then some .shiftRegisterR15 else none

/-- MUL and MLA: R15 in a field, else Rd = Rm (spec/42_arm_multiply.md R220). -/
def multiplyViolation (rd rm : Reg) (others : List Reg) : Option Refusal :=
  if 15#4 ∈ rd :: rm :: others then some .r15InMultiply
  else if rd = rm then some .mulRdEqRm
  else none

/-- Long multiplies: R15 in a field, else two of RdHi, RdLo, Rm equal (spec/42_arm_multiply.md R227). -/
def longMultiplyViolation (rdHi rdLo rs rm : Reg) : Option Refusal :=
  if 15#4 ∈ [rdHi, rdLo, rs, rm] then some .r15InMultiply
  else if rdHi = rdLo ∨ rdHi = rm ∨ rdLo = rm then some .longMultiplyEqualRegs
  else none

/-- Write-back: Rn = Rd, else Rn = R15 (spec/44_arm_single_transfer.md R262, spec/45_arm_halfword_transfer.md R292). -/
def writeBackViolation (wb : Bool) (rn rd : Reg) : Option Refusal :=
  if wb = false then none
  else if rn = rd then some .writebackRnEqRd
  else if rn = 15#4 then some .writebackR15
  else none

/-- A register offset R15, else the write-back (spec/44_arm_single_transfer.md R260, spec/45_arm_halfword_transfer.md
R290). -/
def offsetViolation (rm : Reg) (wb : Bool) (rn rd : Reg) : Option Refusal :=
  if rm = 15#4 then some .rmR15InTransfer else writeBackViolation wb rn rd

/-- LDM and STM: a base R15, else an empty list, else write-back of a user bank transfer
(spec/46_arm_block_transfer.md R313, R318, R320). -/
def blockViolation (rn : Reg) (list : Nat) (userWb : Bool) : Option Refusal :=
  if rn = 15#4 then some .blockBaseR15
  else if list = 0 then some .emptyRegisterList
  else if userWb then some .userBankWriteback
  else none

/-- The restriction that an instruction's operands violate, by the name of its refusal, the first in the order of log 24
(spec/93_implementation_defined.md part A); none when they violate none. -/
def violation : Instr → Option Refusal
  | .bx _ rn => if rn = 15#4 then some .bxR15 else none
  | .andShReg _ _ _ _ o | .eorShReg _ _ _ _ o | .subShReg _ _ _ _ o | .rsbShReg _ _ _ _ o
  | .addShReg _ _ _ _ o | .adcShReg _ _ _ _ o | .sbcShReg _ _ _ _ o | .rscShReg _ _ _ _ o
  | .orrShReg _ _ _ _ o | .bicShReg _ _ _ _ o => shiftViolation o
  | .tstShReg _ _ o | .teqShReg _ _ o | .cmpShReg _ _ o | .cmnShReg _ _ o => shiftViolation o
  | .movShReg _ _ _ o | .mvnShReg _ _ _ o => shiftViolation o
  | .mul _ _ rd rs rm => multiplyViolation rd rm [rs]
  | .mla _ _ rd rn rs rm => multiplyViolation rd rm [rn, rs]
  | .umull _ _ hi lo rs rm | .umlal _ _ hi lo rs rm | .smull _ _ hi lo rs rm | .smlal _ _ hi lo rs rm =>
    longMultiplyViolation hi lo rs rm
  | .mrs _ _ rd => if rd = 15#4 then some .mrsRdR15 else none
  | .msrReg _ _ _ rm => if rm = 15#4 then some .msrRmR15 else none
  | .ldrImmPre _ _ wb rn rd _ | .ldrbImmPre _ _ wb rn rd _ | .strImmPre _ _ wb rn rd _
  | .strbImmPre _ _ wb rn rd _ => writeBackViolation wb rn rd
  | .ldrImmPost _ _ rn rd _ | .ldrbImmPost _ _ rn rd _ | .strImmPost _ _ rn rd _ | .strbImmPost _ _ rn rd _
  | .ldrtImm _ _ rn rd _ | .ldrbtImm _ _ rn rd _ | .strtImm _ _ rn rd _ | .strbtImm _ _ rn rd _ =>
    writeBackViolation true rn rd
  | .ldrRegPre _ _ wb rn rd o | .ldrbRegPre _ _ wb rn rd o | .strRegPre _ _ wb rn rd o
  | .strbRegPre _ _ wb rn rd o => offsetViolation o.rm wb rn rd
  | .ldrRegPost _ _ rn rd o | .ldrbRegPost _ _ rn rd o | .strRegPost _ _ rn rd o | .strbRegPost _ _ rn rd o
  | .ldrtReg _ _ rn rd o | .ldrbtReg _ _ rn rd o | .strtReg _ _ rn rd o | .strbtReg _ _ rn rd o =>
    offsetViolation o.rm true rn rd
  | .strhReg _ ix _ rn rd rm | .ldrhReg _ ix _ rn rd rm | .ldrsbReg _ ix _ rn rd rm
  | .ldrshReg _ ix _ rn rd rm => offsetViolation rm ix.writesBack rn rd
  | .strhImm _ ix _ rn rd _ | .ldrhImm _ ix _ rn rd _ | .ldrsbImm _ ix _ rn rd _
  | .ldrshImm _ ix _ rn rd _ => writeBackViolation ix.writesBack rn rd
  | .stm _ _ _ _ rn list | .ldm _ _ _ _ rn list => blockViolation rn list.toNat false
  | .ldmPcS _ _ _ _ rn _ => if rn = 15#4 then some .blockBaseR15 else none
  | .stmS _ _ _ wb rn list => blockViolation rn list.toNat wb
  | .ldmUserS _ _ _ wb rn list => blockViolation rn list.toNat wb
  | .swp _ rn rd rm | .swpb _ rn rd rm => if 15#4 ∈ [rn, rd, rm] then some .r15InSwap else none
  | .ldc _ _ _ _ wb rn _ _ _ | .stc _ _ _ _ wb rn _ _ _ =>
    if wb = true ∧ rn = 15#4 then some .writebackR15 else none
  | .tPush lr list => if lr = false ∧ list = 0#8 then some .emptyRegisterList else none
  | .tPop pc list => if pc = false ∧ list = 0#8 then some .emptyRegisterList else none
  | .tStmia _ list | .tLdmia _ list => if list = 0#8 then some .emptyRegisterList else none
  | _ => none

/-- The coprocessor that LDC and STC have to find attached before anything of theirs is looked at
(spec/47_arm_swap_coproc.md R350). -/
def transferCoproc : Instr → Option (BitVec 4)
  | .ldc _ _ _ _ _ _ _ p _ | .stc _ _ _ _ _ _ _ p _ => some p
  | _ => none

/-- The condition of an ARM instruction; a THUMB instruction has none (spec/10_state.md R47, R48). -/
def armCond : Instr → Option Cond
  | .b c .. | .bl c .. | .bx c .. | .swi c .. | .undefined c .. => some c
  | .andImm c .. | .eorImm c .. | .subImm c .. | .rsbImm c .. | .addImm c .. | .adcImm c .. | .sbcImm c ..
  | .rscImm c .. | .tstImm c .. | .teqImm c .. | .cmpImm c .. | .cmnImm c .. | .orrImm c .. | .movImm c ..
  | .bicImm c .. | .mvnImm c .. => some c
  | .andShImm c .. | .eorShImm c .. | .subShImm c .. | .rsbShImm c .. | .addShImm c .. | .adcShImm c ..
  | .sbcShImm c .. | .rscShImm c .. | .tstShImm c .. | .teqShImm c .. | .cmpShImm c .. | .cmnShImm c ..
  | .orrShImm c .. | .movShImm c .. | .bicShImm c .. | .mvnShImm c .. => some c
  | .andShReg c .. | .eorShReg c .. | .subShReg c .. | .rsbShReg c .. | .addShReg c .. | .adcShReg c ..
  | .sbcShReg c .. | .rscShReg c .. | .tstShReg c .. | .teqShReg c .. | .cmpShReg c .. | .cmnShReg c ..
  | .orrShReg c .. | .movShReg c .. | .bicShReg c .. | .mvnShReg c .. => some c
  | .mul c .. | .mla c .. | .umull c .. | .umlal c .. | .smull c .. | .smlal c .. => some c
  | .mrs c .. | .msrReg c .. | .msrImm c .. => some c
  | .ldrImmPre c .. | .ldrImmPost c .. | .ldrRegPre c .. | .ldrRegPost c .. => some c
  | .ldrbImmPre c .. | .ldrbImmPost c .. | .ldrbRegPre c .. | .ldrbRegPost c .. => some c
  | .strImmPre c .. | .strImmPost c .. | .strRegPre c .. | .strRegPost c .. => some c
  | .strbImmPre c .. | .strbImmPost c .. | .strbRegPre c .. | .strbRegPost c .. => some c
  | .ldrtImm c .. | .ldrtReg c .. | .ldrbtImm c .. | .ldrbtReg c .. => some c
  | .strtImm c .. | .strtReg c .. | .strbtImm c .. | .strbtReg c .. => some c
  | .strhReg c .. | .strhImm c .. | .ldrhReg c .. | .ldrhImm c .. => some c
  | .ldrsbReg c .. | .ldrsbImm c .. | .ldrshReg c .. | .ldrshImm c .. => some c
  | .stm c .. | .ldm c .. | .ldmPcS c .. | .stmS c .. | .ldmUserS c .. => some c
  | .swp c .. | .swpb c .. | .mrc c .. | .mcr c .. | .cdp c .. | .ldc c .. | .stc c .. => some c
  | _ => none

/-- The instruction's condition, if it has one, passes (spec/10_state.md R45). -/
def condHolds (i : Instr) (s : State) : Prop := ∀ c : Cond, armCond i = some c → condPassed c s.cpsr.flags = true

/-- The state of the processor an instruction belongs to: ARM instructions have a condition field. -/
def inItsState (i : Instr) (s : State) : Prop := s.cpsr.t = (encode i).isThumb

/-! ## THUMB register operations -/

/-- The result-writing operations of formats 2, 3 and 4 as an opcode, a destination and two operands
(spec/48_thumb_register_ops.md R381 to R412); none for every other instruction. -/
def thumbAluView (s : State) : Instr → Option (AluOp × LoReg × Word × Word)
  | .tAddReg rn rs rd => some (.add, rd, s.reg (lo rs) 4, s.reg (lo rn) 4)
  | .tSubReg rn rs rd => some (.sub, rd, s.reg (lo rs) 4, s.reg (lo rn) 4)
  | .tAddImm3 nn rs rd => some (.add, rd, s.reg (lo rs) 4, nn.setWidth 32)
  | .tSubImm3 nn rs rd => some (.sub, rd, s.reg (lo rs) 4, nn.setWidth 32)
  | .tMovImm8 rd nn => some (.mov, rd, 0, nn.setWidth 32)
  | .tAddImm8 rd nn => some (.add, rd, s.reg (lo rd) 4, nn.setWidth 32)
  | .tSubImm8 rd nn => some (.sub, rd, s.reg (lo rd) 4, nn.setWidth 32)
  | .tAnd rs rd => some (.and, rd, s.reg (lo rd) 4, s.reg (lo rs) 4)
  | .tEor rs rd => some (.eor, rd, s.reg (lo rd) 4, s.reg (lo rs) 4)
  | .tAdc rs rd => some (.adc, rd, s.reg (lo rd) 4, s.reg (lo rs) 4)
  | .tSbc rs rd => some (.sbc, rd, s.reg (lo rd) 4, s.reg (lo rs) 4)
  | .tNeg rs rd => some (.sub, rd, 0, s.reg (lo rs) 4)
  | .tOrr rs rd => some (.orr, rd, s.reg (lo rd) 4, s.reg (lo rs) 4)
  | .tBic rs rd => some (.bic, rd, s.reg (lo rd) 4, s.reg (lo rs) 4)
  | .tMvn rs rd => some (.mvn, rd, 0, s.reg (lo rs) 4)
  | _ => none

/-- The compares of formats 3, 4 and 5 (spec/48_thumb_register_ops.md R388, R405, R407, R408, R422); none for every
other instruction. -/
def thumbCompareView (s : State) : Instr → Option (AluOp × Word × Word)
  | .tCmpImm8 rd nn => some (.cmp, s.reg (lo rd) 4, nn.setWidth 32)
  | .tTst rs rd => some (.tst, s.reg (lo rd) 4, s.reg (lo rs) 4)
  | .tCmpReg rs rd => some (.cmp, s.reg (lo rd) 4, s.reg (lo rs) 4)
  | .tCmn rs rd => some (.cmn, s.reg (lo rd) 4, s.reg (lo rs) 4)
  | .tCmpHiDst rs rd => some (.cmp, s.reg (hi rd) 4, s.reg rs 4)
  | .tCmpHiSrc rs rd => some (.cmp, s.reg (lo rd) 4, s.reg (hi rs) 4)
  | _ => none

/-- The seven shifts: destination, result and shifter carry (spec/48_thumb_register_ops.md R376 to R378, R399 to R404);
none for every other instruction. -/
def thumbShiftView (s : State) : Instr → Option (LoReg × Shifted)
  | .tLslImm k rs rd => some (rd, shiftImm s.cpsr.flags.c .lsl (s.reg (lo rs) 4) k)
  | .tLsrImm k rs rd => some (rd, shiftImm s.cpsr.flags.c .lsr (s.reg (lo rs) 4) k)
  | .tAsrImm k rs rd => some (rd, shiftImm s.cpsr.flags.c .asr (s.reg (lo rs) 4) k)
  | .tLslReg rs rd => some (rd, shiftReg s.cpsr.flags.c .lsl (s.reg (lo rd) 4) ((s.reg (lo rs) 4).extractLsb' 0 8))
  | .tLsrReg rs rd => some (rd, shiftReg s.cpsr.flags.c .lsr (s.reg (lo rd) 4) ((s.reg (lo rs) 4).extractLsb' 0 8))
  | .tAsrReg rs rd => some (rd, shiftReg s.cpsr.flags.c .asr (s.reg (lo rd) 4) ((s.reg (lo rs) 4).extractLsb' 0 8))
  | .tRor rs rd => some (rd, shiftReg s.cpsr.flags.c .ror (s.reg (lo rd) 4) ((s.reg (lo rs) 4).extractLsb' 0 8))
  | _ => none

/-- Format 5 ADD and MOV and formats 12 and 13: the register written and its new value, no flags
(spec/48_thumb_register_ops.md R421, R423, spec/49_thumb_memory_branch.md R485 to R490); none for every other
instruction. R15 reads pc+4, in format 12 with bit 1 cleared. -/
def thumbMoveView (s : State) : Instr → Option (Reg × Word)
  | .tAddHiDst rs rd => some (hi rd, s.reg (hi rd) 4 + s.reg rs 4)
  | .tAddHiSrc rs rd => some (lo rd, s.reg (lo rd) 4 + s.reg (hi rs) 4)
  | .tMovHiDst rs rd => some (hi rd, s.reg rs 4)
  | .tMovHiSrc rs rd => some (lo rd, s.reg (hi rs) 4)
  | .tAddPc rd nn => some (lo rd, clearBit1 (s.pc + 4) + BitVec.ofNat 32 (nn.toNat * 4))
  | .tAddSp rd nn => some (lo rd, s.reg 13#4 4 + BitVec.ofNat 32 (nn.toNat * 4))
  | .tSpAdd nn => some (13#4, s.reg 13#4 4 + BitVec.ofNat 32 (nn.toNat * 4))
  | .tSpSub nn => some (13#4, s.reg 13#4 4 - BitVec.ofNat 32 (nn.toNat * 4))
  | _ => none

/-- The THUMB loads: kind, destination, address (spec/49_thumb_memory_branch.md R452 to R482); none for every other
instruction. -/
def thumbLoadView (s : State) : Instr → Option (LoadKind × LoReg × Word)
  | .tLdrPc rd nn => some (.word, rd, clearBit1 (s.pc + 4) + zext nn * 4)
  | .tLdrReg ro rb rd => some (.word, rd, s.reg (lo rb) 4 + s.reg (lo ro) 4)
  | .tLdrbReg ro rb rd => some (.byte, rd, s.reg (lo rb) 4 + s.reg (lo ro) 4)
  | .tLdsbReg ro rb rd => some (.signedByte, rd, s.reg (lo rb) 4 + s.reg (lo ro) 4)
  | .tLdrhReg ro rb rd => some (.half, rd, s.reg (lo rb) 4 + s.reg (lo ro) 4)
  | .tLdshReg ro rb rd => some (.signedHalf, rd, s.reg (lo rb) 4 + s.reg (lo ro) 4)
  | .tLdrImm nn rb rd => some (.word, rd, s.reg (lo rb) 4 + zext nn * 4)
  | .tLdrbImm nn rb rd => some (.byte, rd, s.reg (lo rb) 4 + zext nn)
  | .tLdrhImm nn rb rd => some (.half, rd, s.reg (lo rb) 4 + zext nn * 2)
  | .tLdrSp rd nn => some (.word, rd, s.reg 13#4 4 + zext nn * 4)
  | _ => none

/-- The THUMB stores: kind, source, address (spec/49_thumb_memory_branch.md R456 to R481); none for every other
instruction. -/
def thumbStoreView (s : State) : Instr → Option (StoreKind × LoReg × Word)
  | .tStrReg ro rb rd => some (.word, rd, s.reg (lo rb) 4 + s.reg (lo ro) 4)
  | .tStrbReg ro rb rd => some (.byte, rd, s.reg (lo rb) 4 + s.reg (lo ro) 4)
  | .tStrhReg ro rb rd => some (.half, rd, s.reg (lo rb) 4 + s.reg (lo ro) 4)
  | .tStrImm nn rb rd => some (.word, rd, s.reg (lo rb) 4 + zext nn * 4)
  | .tStrbImm nn rb rd => some (.byte, rd, s.reg (lo rb) 4 + zext nn)
  | .tStrhImm nn rb rd => some (.half, rd, s.reg (lo rb) 4 + zext nn * 2)
  | .tStrSp rd nn => some (.word, rd, s.reg 13#4 4 + zext nn * 4)
  | _ => none

/-- Format 16: the condition and the offset (spec/49_thumb_memory_branch.md R510); none for every other instruction. -/
def thumbBranchView : Instr → Option (Cond × BitVec 8)
  | .tBeq off => some (.eq, off)
  | .tBne off => some (.ne, off)
  | .tBcs off => some (.cs, off)
  | .tBcc off => some (.cc, off)
  | .tBmi off => some (.mi, off)
  | .tBpl off => some (.pl, off)
  | .tBvs off => some (.vs, off)
  | .tBvc off => some (.vc, off)
  | .tBhi off => some (.hi, off)
  | .tBls off => some (.ls, off)
  | .tBge off => some (.ge, off)
  | .tBlt off => some (.lt, off)
  | .tBgt off => some (.gt, off)
  | .tBle off => some (.le, off)
  | _ => none

/-- What a word, byte, halfword or signed load delivers, byte by byte (spec/20_memory.md R65, R66, R67, R70). -/
def loadedValue (s : State) (k : LoadKind) (ea : Word) : Word :=
  match k with
  | .word => SingleOp.loaded .ldr s ea
  | .byte => SingleOp.loaded .ldrb s ea
  | .half => HalfLoad.loaded .ldrh s ea
  | .signedByte => HalfLoad.loaded .ldrsb s ea
  | .signedHalf => HalfLoad.loaded .ldrsh s ea

/-! ## Which instructions do what -/

/-- The instructions that store to memory (spec/20_memory.md R70). -/
def storesMemory : Instr → Bool
  | .strImmPre .. | .strImmPost .. | .strRegPre .. | .strRegPost .. => true
  | .strbImmPre .. | .strbImmPost .. | .strbRegPre .. | .strbRegPost .. => true
  | .strtImm .. | .strtReg .. | .strbtImm .. | .strbtReg .. | .strhReg .. | .strhImm .. => true
  | .stm .. | .stmS .. | .swp .. | .swpb .. | .stc .. => true
  | .tStrReg .. | .tStrbReg .. | .tStrhReg .. | .tStrImm .. | .tStrbImm .. | .tStrhImm .. | .tStrSp .. => true
  | .tPush .. | .tStmia .. => true
  | _ => false

/-- The loads, stores, branches, SWP, MRS and THUMB formats 5 (ADD, MOV, BX) and 6 to 19, which never write the flags
(spec/10_state.md R34); LDM^ with R15, which copies the SPSR, is not among them. -/
def keepsFlags : Instr → Bool
  | .b .. | .bl .. | .bx .. | .mrs .. | .swp .. | .swpb .. => true
  | .ldrImmPre .. | .ldrImmPost .. | .ldrRegPre .. | .ldrRegPost .. => true
  | .ldrbImmPre .. | .ldrbImmPost .. | .ldrbRegPre .. | .ldrbRegPost .. => true
  | .strImmPre .. | .strImmPost .. | .strRegPre .. | .strRegPost .. => true
  | .strbImmPre .. | .strbImmPost .. | .strbRegPre .. | .strbRegPost .. => true
  | .ldrtImm .. | .ldrtReg .. | .ldrbtImm .. | .ldrbtReg .. => true
  | .strtImm .. | .strtReg .. | .strbtImm .. | .strbtReg .. => true
  | .strhReg .. | .strhImm .. | .ldrhReg .. | .ldrhImm .. => true
  | .ldrsbReg .. | .ldrsbImm .. | .ldrshReg .. | .ldrshImm .. => true
  | .stm .. | .ldm .. | .stmS .. | .ldmUserS .. => true
  | .tAddHiDst .. | .tAddHiSrc .. | .tMovHiDst .. | .tMovHiSrc .. | .tBx .. | .tLdrPc .. => true
  | .tStrReg .. | .tStrbReg .. | .tLdrReg .. | .tLdrbReg .. | .tStrhReg .. | .tLdsbReg .. => true
  | .tLdrhReg .. | .tLdshReg .. | .tStrImm .. | .tLdrImm .. | .tStrbImm .. | .tLdrbImm .. => true
  | .tStrhImm .. | .tLdrhImm .. | .tStrSp .. | .tLdrSp .. | .tAddPc .. | .tAddSp .. | .tSpAdd .. => true
  | .tSpSub .. | .tPush .. | .tPop .. | .tStmia .. | .tLdmia .. => true
  | .tBeq .. | .tBne .. | .tBcs .. | .tBcc .. | .tBmi .. | .tBpl .. | .tBvs .. | .tBvc .. | .tBhi .. => true
  | .tBls .. | .tBge .. | .tBlt .. | .tBgt .. | .tBle .. | .tSwi .. | .tB .. | .tBlFirst .. | .tBlSecond .. => true
  | _ => false

/-- The registers that User and System mode do not see (spec/10_state.md R21). -/
def exceptionBanked : GReg → Bool
  | .r8Fiq | .r9Fiq | .r10Fiq | .r11Fiq | .r12Fiq | .r13Fiq | .r14Fiq => true
  | .r13Svc | .r14Svc | .r13Abt | .r14Abt | .r13Irq | .r14Irq | .r13Und | .r14Und => true
  | .r0 | .r1 | .r2 | .r3 | .r4 | .r5 | .r6 | .r7 | .r8 | .r9 | .r10 | .r11 | .r12 | .r13 | .r14 => false

/-- The exceptions an instruction raises itself (spec/60_exceptions.md R543), with their modes and vectors. -/
inductive Raised where
  | undefined | softwareInterrupt | dataAbort
  deriving DecidableEq, Repr

/-- The mode entered (spec/60_exceptions.md R540). -/
def Raised.mode : Raised → Mode
  | .undefined => .und
  | .softwareInterrupt => .svc
  | .dataAbort => .abt

/-- The vector (spec/60_exceptions.md R540). -/
def Raised.vector : Raised → Word
  | .undefined => 0x00000004#32
  | .softwareInterrupt => 0x00000008#32
  | .dataAbort => 0x00000010#32

/-! ## The step -/

/-- At this boundary no reset, no FIQ that F lets through and no IRQ that I lets through (spec/60_exceptions.md
R566). -/
def noEvent (s : State) : Prop :=
  s.sample.reset = false ∧ (s.sample.nFIQ = .high ∨ s.cpsr.f = true) ∧ (s.sample.nIRQ = .high ∨ s.cpsr.i = true)

/-- The instruction at pc can be fetched from RAM: pc aligned, no abort, no device, not stored to by one of the two
instructions before (spec/60_exceptions.md R566, spec/20_memory.md R84). -/
def fetchable (s : State) : Prop :=
  pcAligned s ∧ ReachesRam s .fetch s.userMode s.pc s.pc s.fetchWidth ∧ s.stale (widthBytes s.fetchWidth) = false

/-- The register is banked in a mode: R13 and R14 in the exception modes, R8 to R12 too in FIQ mode
(spec/10_state.md R21). -/
def bankedRegister (m : Mode) (r : Reg) : Prop :=
  m ≠ .usr ∧ m ≠ .sys ∧ (r = 13#4 ∨ r = 14#4) ∨ m = .fiq ∧ 8 ≤ r.toNat ∧ r.toNat ≤ 12

/-- The condition of the word at pc passes; in THUMB state there is none to pass (spec/10_state.md R45 to R48). -/
def conditionPasses (s : State) : Prop :=
  s.cpsr.t = false → ∃ c : Cond, Cond.ofCode ((s.mem.read s.pc .word).extractLsb' 28 4) = some c ∧
    condPassed c s.cpsr.flags = true

/-- The bytes at pc, lowest address first. -/
def bytesAtPc (s : State) : List Byte :=
  (List.range (widthBytes s.fetchWidth)).map fun k => s.mem.get (s.pc.toNat + k)

end Sys2Proof.Machine
end

