-- ==== Sys2Proof/Certificates/Slice0/Obligations.lean ====
section
/-! DEFINITION. The statements for the provers. -/

open Sys2Proof Sys2Proof.Machine

/-! ## Encoding -/

/-- R100 to R122: for every well-formed instruction, the decoder gives it back from its own bytes. -/
def Obligations.DecodeOfEncode : Prop :=
  ∀ i : Instr, i.wellFormed = true → decode (encode i).isThumb (encode i).bytes = .ok i

/-- R101, R102, R120, R121: a word or halfword that decodes is the code of the instruction it decodes to, so no two
codes decode to one instruction. -/
def Obligations.EncodeOfDecode : Prop :=
  (∀ (w : Word) (i : Instr), decodeArm w = .ok i → encode i = .arm w) ∧
  (∀ (h : Half) (i : Instr), decodeThumb h = .ok i → encode i = .thumb h)

/-- Words and halfwords of the spec's own examples decode to the instructions they stand for (R151, R154, R190, R230,
R242, R272, R298, R314, R341, R356, R377, R421, R452, R494, R510, R521). -/
def Obligations.DecodeExamples : Prop :=
  decodeArm 0xEBFFFFFE#32 = .ok (.bl .al 0xFFFFFE#24) ∧
  decodeArm 0xE12FFF10#32 = .ok (.bx .al 0#4) ∧
  decodeArm 0xE2010CFF#32 = .ok (.andImm .al false 1#4 0#4 ⟨0xC#4, 0xFF#8⟩) ∧
  decodeArm 0xE0A10392#32 = .ok (.umlal .al false 1#4 0#4 3#4 2#4) ∧
  decodeArm 0xE328F20F#32 = .ok (.msrImm .al false ⟨true, false, false, false⟩ ⟨2#4, 0x0F#8⟩) ∧
  decodeArm 0xE5210004#32 = .ok (.strImmPre .al false true 1#4 0#4 4#12) ∧
  decodeArm 0xE05100F2#32 = .ok (.ldrshImm .al .post false 1#4 0#4 2#8) ∧
  decodeArm 0xE92D000F#32 = .ok (.stm .al true false true 13#4 0x000F#16) ∧
  decodeArm 0xE1020091#32 = .ok (.swp .al 2#4 0#4 1#4) ∧
  decodeArm 0xED832104#32 = .ok (.stc .al true true false false 3#4 2#4 1#4 4#8) ∧
  decodeThumb 0x081A#16 = .ok (.tLsrImm 0#5 3#3 2#3) ∧
  decodeThumb 0x4440#16 = .ok (.tAddHiSrc 0#3 0#3) ∧
  decodeThumb 0x4802#16 = .ok (.tLdrPc 0#3 2#8) ∧
  decodeThumb 0xB505#16 = .ok (.tPush true 0x05#8) ∧
  decodeThumb 0xD1FE#16 = .ok (.tBne 0xFE#8) ∧
  decodeThumb 0xF87E#16 = .ok (.tBlSecond 0x07E#11)

/-! ## The step -/

/-- R566: with no event at the boundary and a fetchable instruction whose bytes decode to `i` (in ARM state its
condition passing), and no banked register read right after an LDM of the user bank, the step runs `i`: on the state with
the input sample consumed, the stale-fetch window moved on and the user-LDM mark cleared. -/
def Obligations.StepRunsDecoded : Prop :=
  ∀ (s : State) (i : Instr), noEvent s → fetchable s → decode s.cpsr.t (bytesAtPc s) = .ok i → conditionPasses s →
    s.bankHazard i = false →
    step s = exec i { s with inputs := s.inputs.tail, window := ⟨[], s.window.last⟩, userLdm := false }

/-- R47: an ARM instruction whose condition fails does nothing but advance the PC by 4, whatever its operands. That
this holds also of operands that are refused, the rest of the word not being looked at when the condition fails, is
what R47 takes from general knowledge (PRESUMED, log 18). -/
def Obligations.FailedConditionIsNop : Prop :=
  ∀ (i : Instr) (c : Cond) (s : State), armCond i = some c → condPassed c s.cpsr.flags = false →
    exec i s = .next { s with pc := s.pc + 4 }

/-- R46, R47: an ARM word at pc whose condition fails is not decoded at all: the step advances the PC and nothing else
of the core changes, also for a word that is no instruction. A word with condition 1111b is refused, or, where the
platform's switch says so, never executed. That the rest of the word is not looked at when the condition fails, so that
a word that is no instruction does nothing, is what R47 takes from general knowledge (PRESUMED, log 18); that a word
with condition 1111b is never executed under the switch is what R46 takes from general knowledge (PRESUMED, log 12). -/
def Obligations.ConditionAtTheStep : Prop :=
  ∀ s : State, noEvent s → fetchable s → s.cpsr.t = false →
    let code := (s.mem.read s.pc .word).extractLsb' 28 4
    let skipped (t : State) : Prop :=
      t.pc = s.pc + 4 ∧ t.cpsr = s.cpsr ∧ SameRegs s t ∧ t.spsrs = s.spsrs ∧ SameMemory s t
    (∀ c : Cond, Cond.ofCode code = some c → condPassed c s.cpsr.flags = false →
      ∃ t : State, step s = .next t ∧ skipped t) ∧
    (code = 15#4 → s.platform.nvNeverExecutes = false → step s = .refused .cond1111) ∧
    (code = 15#4 → s.platform.nvNeverExecutes = true → ∃ t : State, step s = .next t ∧ skipped t)

/-- R45: the condition codes 0h to Eh (Fh is none), and when each of the fifteen conditions passes. -/
def Obligations.ConditionTable : Prop :=
  ([0x0#4, 0x1#4, 0x2#4, 0x3#4, 0x4#4, 0x5#4, 0x6#4, 0x7#4, 0x8#4, 0x9#4, 0xA#4, 0xB#4, 0xC#4, 0xD#4, 0xE#4, 0xF#4].map
      Cond.ofCode =
    [some .eq, some .ne, some .cs, some .cc, some .mi, some .pl, some .vs, some .vc, some .hi, some .ls, some .ge,
      some .lt, some .gt, some .le, some .al, none]) ∧
  ∀ f : Nzcv,
    (condPassed .eq f = true ↔ f.z = true) ∧ (condPassed .ne f = true ↔ f.z = false) ∧
    (condPassed .cs f = true ↔ f.c = true) ∧ (condPassed .cc f = true ↔ f.c = false) ∧
    (condPassed .mi f = true ↔ f.n = true) ∧ (condPassed .pl f = true ↔ f.n = false) ∧
    (condPassed .vs f = true ↔ f.v = true) ∧ (condPassed .vc f = true ↔ f.v = false) ∧
    (condPassed .hi f = true ↔ f.c = true ∧ f.z = false) ∧ (condPassed .ls f = true ↔ f.c = false ∨ f.z = true) ∧
    (condPassed .ge f = true ↔ f.n = f.v) ∧ (condPassed .lt f = true ↔ f.n ≠ f.v) ∧
    (condPassed .gt f = true ↔ f.z = false ∧ f.n = f.v) ∧ (condPassed .le f = true ↔ f.z = true ∨ f.n ≠ f.v) ∧
    condPassed .al f = true

/-- R84: an instruction with a byte that one of the two instructions before it stored, with no write to the PC since, is
refused, whether or not its condition passes: that the check stands before the condition and that the window counts
executed instructions is the model's reading (DEDUCED, log 10). The window itself: a step leaves it empty, as every write
to the PC does, or moves on by one instruction, notes that instruction's stores, which take in every byte changed, and
forgets those before the instruction before it; STR and STRB note the bytes of their access, also of a device, which is
the model's reading (DEDUCED, log 27); B empties the window, whatever its target. -/
def Obligations.StaleFetchRefused : Prop :=
  (∀ (s : State) (w : Span) (b : Nat), noEvent s → pcAligned s →
    s.aborts .fetch s.userMode s.pc s.fetchWidth = false → w ∈ s.window.last ++ s.window.prev →
    w.addr.toNat ≤ b → b < w.addr.toNat + w.len → s.pc.toNat ≤ b → b < s.pc.toNat + widthBytes s.fetchWidth →
    step s = .refused .staleFetch) ∧
  (∀ s t : State, step s = .next t →
    t.window = ⟨[], []⟩ ∨
      (noEvent s ∧ (t.pc = s.pc + 4 ∨ t.pc = s.pc + 2) ∧ NotesStores { s with window := ⟨[], s.window.last⟩ } t)) ∧
  (∀ (op : SingleOp) (f : SingleForm) (c : Cond) (up : Bool) (rn rd : Reg) (s : State), op = .str ∨ op = .strb →
    condPassed c s.cpsr.flags = true → f.allowed rn rd →
    s.aborts .write (f.user s) (f.ea up rn s) op.width = false →
    ∃ t : State, exec (op.instr c up rn rd f) s = .next t ∧
      t.window = ⟨⟨op.address (f.ea up rn s), widthBytes op.width⟩ :: s.window.last, s.window.prev⟩) ∧
  (∀ (c : Cond) (off : BitVec 24) (s : State), condPassed c s.cpsr.flags = true →
    ∃ t : State, exec (.b c off) s = .next t ∧ t.window = ⟨[], []⟩)

/-- R620: right after an LDM of the user bank, an instruction that reads a register banked in the current mode is refused;
`readsRegs` lists the registers each instruction reads, the base and the stored registers among them. How long the mark
lasts is the model's reading (DEDUCED, log 11): until the next instruction is executed, across an exception entry, and
after an LDM that ends in a Data Abort too. -/
def Obligations.BankedReadAfterUserLdmRefused : Prop :=
  ∀ (s : State) (i : Instr) (r : Reg), noEvent s → fetchable s → decode s.cpsr.t (bytesAtPc s) = .ok i →
    conditionPasses s → s.userLdm = true → r ∈ readsRegs s.platform.coprocs i → bankedRegister s.cpsr.mode r →
    step s = .refused .bankedReadAfterUserLdm

/-! ## Interrupts, aborts, reset -/

/-- R562, R563, R565: with nFIQ LOW, F clear and no reset, the step enters FIQ, whatever nIRQ is and whatever stands at
pc; with nIRQ LOW, I clear, no reset and no FIQ being taken, the step enters IRQ. That R14_fiq is pc + 4 is what the spec
takes from general knowledge (R546, D18; PRESUMED, log 18); that FIQ goes before IRQ is its decision D28 (R565). -/
def Obligations.InterruptEntry : Prop :=
  ∀ s : State, s.sample.reset = false →
    (s.sample.nFIQ = .low → s.cpsr.f = false →
      ∃ t : State, step s = .next t ∧ Entered s t .fiq 0x0000001C#32 true (s.pc + 4)) ∧
    ((s.sample.nFIQ = .high ∨ s.cpsr.f = true) → s.sample.nIRQ = .low → s.cpsr.i = false →
      ∃ t : State, step s = .next t ∧ Entered s t .irq 0x00000018#32 false (s.pc + 4))

/-- R551: an aborted fetch enters Abort mode with R14_abt = pc + 4 in either state, whatever the word's condition. -/
def Obligations.PrefetchAbortEntry : Prop :=
  ∀ s : State, noEvent s → pcAligned s → s.aborts .fetch s.userMode s.pc s.fetchWidth = true →
    ∃ t : State, step s = .next t ∧ Entered s t .abt 0x0000000C#32 false (s.pc + 4)

/-- R157, R515: SWI enters Supervisor mode with R14_svc = pc + 4 from ARM state and pc + 2 from THUMB state; the comment
field has no effect. -/
def Obligations.SwiEntry : Prop :=
  (∀ (c : Cond) (comment : BitVec 24) (s : State), s.cpsr.t = false → condPassed c s.cpsr.flags = true →
    ∃ t : State, exec (.swi c comment) s = .next t ∧ Entered s t .svc 0x00000008#32 false (s.pc + 4)) ∧
  (∀ (comment : BitVec 8) (s : State), s.cpsr.t = true →
    ∃ t : State, exec (.tSwi comment) s = .next t ∧ Entered s t .svc 0x00000008#32 false (s.pc + 2))

/-- R160, R350: the Undefined instruction, and the five coprocessor instructions addressed to an absent coprocessor,
take the Undefined Instruction exception with R14_und = pc + 4. That an absent coprocessor's instruction takes this
exception is what R350 takes from general knowledge (its decision D12; PRESUMED, log 18). -/
def Obligations.UndefinedEntry : Prop :=
  ∀ (c : Cond) (high : BitVec 20) (low p : BitVec 4) (op : CoprocRegOp) (rd rn : Reg) (o4 cd cn cm : BitVec 4)
    (cp : BitVec 3) (pre up long wb : Bool) (off : BitVec 8) (s : State),
    s.cpsr.t = false → condPassed c s.cpsr.flags = true →
    ∀ i : Instr,
    (i = .undefined c high low ∨
      p ∉ s.platform.coprocs ∧
        i ∈ [Instr.mrc c p op rd, .mcr c p op rd, .cdp c p o4 cd cn cm cp, .ldc c pre up long wb rn cd p off,
          .stc c pre up long wb rn cd p off]) →
    ∃ t : State, exec i s = .next t ∧ Entered s t .und 0x00000004#32 false (s.pc + 4)

/-- R552, R264, R530: what an aborted data access leaves, the Data Abort being entered with R14_abt = pc + 8. LDR,
LDRB, STR, STRB with their T forms, LDRH, LDRSB, LDRSH, STRH and the THUMB loads and stores: Rd and memory are left
alone, the base is still written back. SWP, SWPB: Rd and memory are left alone, whichever access aborts. STM, PUSH,
STMIA, STC: the words before the aborting one are stored, each after it is stored or not, the base is written back. LDM
in every form, POP, LDMIA, LDC: memory is left alone, the base is new or old by the write-back, also when it is listed,
the registers loaded before the abort are old or loaded, R15 and CPSR are left alone. LDC and STC reach the aborting
word only when the coprocessor asks for it (how many words it asks for is open, log 9), else they complete. LDM of the
user bank leaves its mark of R620 (DEDUCED, log 11). The platform is asked with the address not rounded down (R264,
R293; for THUMB and SWP DEDUCED, log 7), of a word of a block, LDC or STC with the rounded-down one (R312; for LDC and
STC DEDUCED, log 7); a user bank transfer has the privilege of the current mode (DESIGN CHOICE, log 7). That an aborted
single or block transfer still writes the base back, with the base's value after an aborted LDM that lists it, and that
an aborted LDM leaves R15 and CPSR alone, is what R552 takes from general knowledge (its decision D32; PRESUMED, log
18); that a word after the aborting one is stored or not and a loaded register old or loaded, each by a free choice, is
the model's reading of its `any` (DEDUCED, log 17). -/
def Obligations.SingleDataAbort : Prop :=
  (∀ (op : SingleOp) (f : SingleForm) (c : Cond) (up : Bool) (rn rd : Reg) (s : State),
    condPassed c s.cpsr.flags = true → f.allowed rn rd →
    s.aborts (if op = .ldr ∨ op = .ldrb then .read else .write) (f.user s) (f.ea up rn s) op.width = true →
    ∃ u t : State, WritesBase s u rn f.wb (f.idx up rn s) ∧ SameRest s u ∧ SameMemory s u ∧
      DataAborts (op.instr c up rn rd f) s u t) ∧
  (∀ (f : HalfForm) (c : Cond) (ix : HalfIndex) (up : Bool) (rn rd : Reg) (s : State) (i : Instr),
    condPassed c s.cpsr.flags = true → f.allowed ix rn rd →
    ((∃ op : HalfLoad, i = op.instr c ix up rn rd f ∧
        s.aborts .read s.userMode (f.ea ix up rn s) (op.width (f.ea ix up rn s)) = true) ∨
      (i = strhInstr c ix up rn rd f ∧ s.aborts .write s.userMode (f.ea ix up rn s) .half = true)) →
    ∃ u t : State, WritesBase s u rn ix.writesBack (f.idx up rn s) ∧ SameRest s u ∧ SameMemory s u ∧
      DataAborts i s u t) ∧
  (∀ (i : Instr) (rd : LoReg) (ea : Word) (s : State),
    ((∃ k : LoadKind, thumbLoadView s i = some (k, rd, ea) ∧
        s.aborts .read s.userMode ea (k.width ea) = true) ∨
      (∃ k : StoreKind, thumbStoreView s i = some (k, rd, ea) ∧
        s.aborts .write s.userMode ea k.width = true)) →
    ∃ t : State, DataAborts i s s t) ∧
  (∀ (c : Cond) (rn rd rm : Reg) (s : State) (op : SingleOp) (i : Instr), condPassed c s.cpsr.flags = true →
    rn ≠ 15#4 → rd ≠ 15#4 → rm ≠ 15#4 → (op = .ldr ∧ i = .swp c rn rd rm ∨ op = .ldrb ∧ i = .swpb c rn rd rm) →
    (s.aborts .read s.userMode (s.reg rn 8) op.width = true ∨
      ReachesRam s .read s.userMode (s.reg rn 8) (op.address (s.reg rn 8)) op.width ∧
        s.aborts .write s.userMode (s.reg rn 8) op.width = true) →
    ∃ t : State, DataAborts i s s t) ∧
  (∀ (i : Instr) (b : BlockView) (s : State) (j : Nat), i.wellFormed = true → condHolds i s → storeView s i = some b →
    s.mem.wf = true → FirstAbort s .write (fun k => b.list.getLsbD k = true) b.address j →
    ∃ u t : State,
      StoredUpTo s u (fun k => b.list.getLsbD k = true) b.address (fun k => b.stored s (BitVec.ofNat 4 k)) j ∧
      WritesBase s u b.base b.wb b.newBase ∧ SameRest s u ∧ DataAborts i s u t) ∧
  (∀ (i : Instr) (b : BlockView) (s : State) (j : Nat), i.wellFormed = true → condHolds i s → loadsBlock s i b →
    FirstAbort s .read (fun k => b.list.getLsbD k = true) b.address j →
    ∃ u t : State, b.abortedRegs s u j ∧ SameMemory s u ∧
      SameRest { s with userLdm := s.userLdm || marksUserLdm i } u ∧ DataAborts i s u t) ∧
  (∀ (c : Cond) (pre up long wb : Bool) (rn : Reg) (cd p : BitVec 4) (off : BitVec 8) (s : State) (j : Nat),
    condPassed c s.cpsr.flags = true → p ∈ s.platform.coprocs → (wb = true → rn ≠ 15#4) →
    let n := Config.coprocCount s.coprocLog p long cd
    let address := coprocAddress pre up rn off s
    (AbortsAt s .read address j n →
      if j < n then
        ∃ u t : State, WritesBase s u rn wb (coprocIdx up rn off s) ∧ SameMemory s u ∧
          SameRest { s with coprocLog := .aborted p :: s.coprocLog } u ∧
          DataAborts (.ldc c pre up long wb rn cd p off) s u t
      else ∃ t : State, exec (.ldc c pre up long wb rn cd p off) s = .next t ∧ t.cpsr = s.cpsr ∧ t.pc = s.pc + 4) ∧
    (s.mem.wf = true → AbortsAt s .write address j n →
      if j < n then
        ∃ u t : State,
          (n ≤ 2 ^ 30 → StoredUpTo s u (fun k => k < n) address (Config.coprocStc s.coprocLog p long cd) j) ∧
          WritesBase s u rn wb (coprocIdx up rn off s) ∧ SameRest { s with coprocLog := .aborted p :: s.coprocLog } u ∧
          DataAborts (.stc c pre up long wb rn cd p off) s u t
      else ∃ t : State, exec (.stc c pre up long wb rn cd p off) s = .next t ∧ t.cpsr = s.cpsr ∧ t.pc = s.pc + 4))

/-- R184, R570: with S=1 and Rd=R15 the twelve result-writing opcodes, in a mode with an SPSR that holds a legal mode,
copy the SPSR to the CPSR and branch to the result, aligned by the restored T. -/
def Obligations.AluExceptionReturn : Prop :=
  ∀ (op : AluOp) (f : Op2Form) (c : Cond) (rn : Reg) (s : State) (p : Psr) (m : Mode),
    condPassed c s.cpsr.flags = true → f.allowed → op.compares = false →
    s.spsrs.get? s.cpsr.mode = some p → m.bits = p.m →
    ∃ t : State, exec (op.instr c true rn 15#4 f) s = .next t ∧
      t.cpsr = { flags := p.flags, i := p.i, f := p.f, t := p.t, mode := m } ∧
      t.pc = (if p.t then alignHalf else alignWord) (op.result (f.first rn s) (f.second s).value s.cpsr.flags.c) ∧
      SameRegs s t ∧ SameMemory s t ∧ SameRest s t

/-- R184, R248, R317: the CPSR-restoring forms and the SPSR transfers are refused in User and System mode. -/
def Obligations.NoSpsrRefused : Prop :=
  ∀ (op : AluOp) (f : Op2Form) (c : Cond) (rn rd : Reg) (m : FieldMask) (o : Op2Imm) (pre up wb : Bool)
    (list : BitVec 15) (s : State),
    condPassed c s.cpsr.flags = true → s.cpsr.mode = .usr ∨ s.cpsr.mode = .sys → f.allowed → op.compares = false →
    rd ≠ 15#4 → rn ≠ 15#4 →
    exec (op.instr c true rn 15#4 f) s = .refused .noSpsr ∧
    exec (.ldmPcS c pre up wb rn list) s = .refused .noSpsr ∧
    exec (.mrs c true rd) s = .refused .noSpsr ∧
    exec (.msrReg c true m rd) s = .refused .noSpsr ∧
    exec (.msrImm c true m o) s = .refused .noSpsr

/-- R570: MOVS PC,R14 (E1B0F00Eh) right after a SWI, in either state, restores the whole CPSR and continues at the
instruction after the SWI; SUBS PC,R14,#4 (E25EF004h) right after an IRQ entry restores the CPSR and continues at the
instruction that was about to execute. -/
def Obligations.ExceptionsReturn : Prop :=
  (∀ (i : Instr) (s : State), pcAligned s →
    (s.cpsr.t = false ∧ (∃ n : BitVec 24, i = .swi .al n) ∨ s.cpsr.t = true ∧ (∃ n : BitVec 8, i = .tSwi n)) →
    ∃ u t : State, exec i s = .next u ∧ exec (.movShImm .al true 15#4 ⟨14#4, .lsl, 0#5⟩) u = .next t ∧
      t.cpsr = s.cpsr ∧ t.pc = s.pc + (if s.cpsr.t then 2 else 4) ∧ SameMemory s t) ∧
  (∀ s : State, pcAligned s → s.sample.reset = false → (s.sample.nFIQ = .high ∨ s.cpsr.f = true) →
    s.sample.nIRQ = .low → s.cpsr.i = false →
    ∃ u t : State, step s = .next u ∧ exec (.subImm .al true 14#4 15#4 ⟨0#4, 4#8⟩) u = .next t ∧
      t.cpsr = s.cpsr ∧ t.pc = s.pc ∧ SameMemory s t)

/-- R50, R600: what the spec states of the machine right after reset. -/
def Obligations.ResetValues : Prop :=
  State.reset.pc = 0x00000000#32 ∧ State.reset.cpsr.t = false ∧ State.reset.cpsr.i = true ∧
    State.reset.cpsr.f = true ∧ State.reset.cpsr.mode.bits = 0b10011#5

/-- R600, R601: the reset input at any boundary, whatever else is asserted: PC, T, I, F and mode as after reset, memory
unchanged. -/
def Obligations.ResetInput : Prop :=
  ∀ s : State, s.sample.reset = true →
    ∃ t : State, step s = .next t ∧ t.pc = 0x00000000#32 ∧ t.cpsr.mode.bits = 0b10011#5 ∧ t.cpsr.t = false ∧
      t.cpsr.i = true ∧ t.cpsr.f = true ∧ SameMemory s t

/-! ## Whole-machine properties -/

/-- The reset state meets the invariant. -/
def Obligations.InvReset : Prop := Invariant State.reset

/-- From every state with memory in canonical form and an aligned PC, a step gives such a state. -/
def Obligations.StepKeepsInv : Prop := ∀ s t : State, Invariant s → step s = .next t → Invariant t

/-- R575, R576: what an instruction of User mode can do: either the machine stays in User mode with I, F, every SPSR and
every register of the exception modes unchanged; or it has entered the one mode and vector of an exception that the
instruction raised, with the old CPSR's I, F, T and mode saved in that mode's SPSR, IRQs disabled, ARM state, F
unchanged, and no other SPSR and no other exception mode's register changed. -/
def Obligations.UserModeConfined : Prop :=
  ∀ (i : Instr) (s t : State), s.cpsr.mode = .usr → exec i s = .next t →
    (t.cpsr.mode = .usr ∧ t.cpsr.i = s.cpsr.i ∧ t.cpsr.f = s.cpsr.f ∧ t.spsrs = s.spsrs ∧
      ∀ g : GReg, exceptionBanked g = true → t.regs.get g = s.regs.get g) ∨
    (∃ r : Raised, t.cpsr.mode = r.mode ∧ t.pc = r.vector ∧ t.cpsr.i = true ∧ t.cpsr.f = s.cpsr.f ∧
      t.cpsr.t = false ∧ t.spsrs.get? r.mode = some s.cpsr.saved ∧
      (∀ m : Mode, m ≠ r.mode → t.spsrs.get? m = s.spsrs.get? m) ∧
      ∀ g : GReg, exceptionBanked g = true → g ≠ linkReg r.mode → t.regs.get g = s.regs.get g)

/-- R41: in every mode, an instruction other than the two BX leaves T alone, or has entered an exception (T clear), or
has copied T with the whole SPSR of the mode it ran in. -/
def Obligations.WhatChangesT : Prop :=
  ∀ (i : Instr) (s t : State), (∀ (c : Cond) (rn : Reg), i ≠ .bx c rn) → (∀ rs : Reg, i ≠ .tBx rs) →
    exec i s = .next t →
    t.cpsr.t = s.cpsr.t ∨
    (∃ r : Raised, t.cpsr.mode = r.mode ∧ t.pc = r.vector ∧ t.cpsr.t = false) ∨
    (∃ (p : Psr) (m : Mode), s.spsrs.get? s.cpsr.mode = some p ∧ m.bits = p.m ∧
      t.cpsr = { flags := p.flags, i := p.i, f := p.f, t := p.t, mode := m })

/-- R34: loads, stores, branches, SWP, MRS and the THUMB formats 5 (ADD, MOV, BX) and 6 to 19 never write the flags,
also when they abort or trap. -/
def Obligations.FlagsKept : Prop :=
  ∀ (i : Instr) (s t : State), keepsFlags i = true → exec i s = .next t → t.cpsr.flags = s.cpsr.flags

/-- R70, R547: an instruction that is no store changes no byte of memory, also when it takes an exception. -/
def Obligations.OnlyStoresStore : Prop :=
  ∀ (i : Instr) (s t : State), storesMemory i = false → exec i s = .next t → SameMemory s t

/-- The restrictions of the operands are the only ones: a well-formed instruction never faults and is refused only for
want of an SPSR, for an illegal mode or for a change of T by MSR. That LDC and STC with write-back to R15 are not
well-formed is the model's reading (DEDUCED, log 23), as is the refusal of SWP with Rn = R15 (DESIGN CHOICE, log 16). -/
def Obligations.WellFormedRuns : Prop :=
  ∀ (i : Instr) (s : State), i.wellFormed = true →
    (∃ t : State, exec i s = .next t) ∨ exec i s = .refused .noSpsr ∨ exec i s = .refused .illegalMode ∨
      exec i s = .refused .tChangedByMsr

/-- U1, U3 to U7, U10 to U14, U30: an instruction that violates an operand restriction is refused under the name of that
restriction (`violation`) when its condition passes and, for LDC and STC, its coprocessor is attached; the instructions
that violate none are the well-formed ones. Which of two violated restrictions gives the name (DESIGN CHOICE, log 24),
SWP with Rn = R15 (DESIGN CHOICE, log 16) and write-back to R15 by LDC and STC (DEDUCED, log 23) are the model's. -/
def Obligations.IllFormedRefused : Prop :=
  (∀ i : Instr, violation i = none ↔ i.wellFormed = true) ∧
  ∀ (i : Instr) (r : Refusal) (s : State), violation i = some r → condHolds i s →
    (∀ p : BitVec 4, transferCoproc i = some p → p ∈ s.platform.coprocs) → exec i s = .refused r

/-! ## ARM data processing -/

/-- R180 to R183, R190 to R205: the sixteen opcodes in their three forms, Rd not R15: the result in Rd (none for the
compares), the flags with S=1 (always for the compares), nothing else. C and V of the arithmetic ones are the formulas
that R181 takes from general knowledge (its decision D15; PRESUMED, log 18), as are the shifter carry of R171 and the
shifts by 32 and more of R173 that the second operand can be (D14; PRESUMED, log 18). Rd = R15 is in DataProcessingToPc
and AluExceptionReturn. -/
def Obligations.DataProcessing : Prop :=
  ∀ (op : AluOp) (f : Op2Form) (c : Cond) (sf : Bool) (rn rd : Reg) (s : State),
    condPassed c s.cpsr.flags = true → f.allowed → (op.compares = true ∨ rd ≠ 15#4) →
    ∃ t : State, exec (op.instr c sf rn rd f) s = .next t ∧
      (if op.compares then SameRegs s t
       else WritesReg s t rd (op.result (f.first rn s) (f.second s).value s.cpsr.flags.c)) ∧
      t.cpsr = { s.cpsr with
        flags := if op.compares || sf then op.flags s.cpsr.flags (f.first rn s) (f.second s).value (f.second s).carry
          else s.cpsr.flags } ∧
      t.pc = s.pc + 4 ∧ SameMemory s t ∧ SameRest s t

/-- R185: with S=0 and Rd=R15 the twelve result-writing opcodes branch to the result with its low two bits clear; the
CPSR is not changed. -/
def Obligations.DataProcessingToPc : Prop :=
  ∀ (op : AluOp) (f : Op2Form) (c : Cond) (rn : Reg) (s : State),
    condPassed c s.cpsr.flags = true → f.allowed → op.compares = false →
    ∃ t : State, exec (op.instr c false rn 15#4 f) s = .next t ∧
      t.pc.toNat = (op.result (f.first rn s) (f.second s).value s.cpsr.flags.c).toNat / 4 * 4 ∧
      t.cpsr = s.cpsr ∧ SameRegs s t ∧ SameMemory s t ∧ SameRest s t

/-- R171, R172, R174: a register shifted by an immediate, amounts 1 to 31 and the four meanings of amount 0; the carry
is the last bit shifted out. A rotated immediate: bit j of the value is bit (j + 2 rot) mod 32 of the zero-extended
byte; C is kept when the rotation is 0, else it is bit 31. That the carry of a shift is the last bit shifted out is
what R171 takes from general knowledge (PRESUMED, log 18). -/
def Obligations.ShiftByImmediate : Prop :=
  (∀ (cin : Bool) (m : Word) (k : BitVec 5),
    (k = 0#5 →
      shiftImm cin .lsl m k = ⟨m, cin⟩ ∧ shiftImm cin .lsr m k = ⟨0#32, m.getLsbD 31⟩ ∧
      shiftImm cin .asr m k = ⟨BitVec.ofInt 32 (m.toInt / 2 ^ 32), m.getLsbD 31⟩ ∧
      shiftImm cin .ror m k = ⟨BitVec.ofNat 32 (m.toNat / 2 + cin.toNat * 2 ^ 31), m.getLsbD 0⟩) ∧
    (k ≠ 0#5 →
      shiftImm cin .lsl m k = ⟨BitVec.ofNat 32 (m.toNat * 2 ^ k.toNat), m.getLsbD (32 - k.toNat)⟩ ∧
      shiftImm cin .lsr m k = ⟨BitVec.ofNat 32 (m.toNat / 2 ^ k.toNat), m.getLsbD (k.toNat - 1)⟩ ∧
      shiftImm cin .asr m k = ⟨BitVec.ofInt 32 (m.toInt / 2 ^ k.toNat), m.getLsbD (k.toNat - 1)⟩ ∧
      (∀ j : Nat, j < 32 → (shiftImm cin .ror m k).value.getLsbD j = m.getLsbD ((j + k.toNat) % 32)) ∧
      (shiftImm cin .ror m k).carry = m.getLsbD (k.toNat - 1))) ∧
  (∀ (cin : Bool) (o : Op2Imm),
    (∀ j : Nat, j < 32 →
      (op2Imm cin o).value.getLsbD j = (o.imm.setWidth 32).getLsbD ((j + 2 * o.rot.toNat) % 32)) ∧
    (op2Imm cin o).carry = (if o.rot = 0#4 then cin else (op2Imm cin o).value.getLsbD 31))

/-- R173: a register shifted by the low byte of a register: 0 changes nothing and keeps C; 1 to 31 as by an immediate;
32 and more by the table. The table of R173 for 32 and more is from general knowledge (its decision D14; PRESUMED, log
18), as is the carry of R171 for 1 to 31 (PRESUMED, log 18). -/
def Obligations.ShiftByRegister : Prop :=
  ∀ (cin : Bool) (m : Word) (b : Byte),
    (b.toNat = 0 → ∀ ty : ShiftType, shiftReg cin ty m b = ⟨m, cin⟩) ∧
    (1 ≤ b.toNat → b.toNat ≤ 31 → ∀ ty : ShiftType, shiftReg cin ty m b = shiftImm cin ty m (b.setWidth 5)) ∧
    (b.toNat = 32 → shiftReg cin .lsl m b = ⟨0#32, m.getLsbD 0⟩ ∧ shiftReg cin .lsr m b = ⟨0#32, m.getLsbD 31⟩) ∧
    (33 ≤ b.toNat → shiftReg cin .lsl m b = ⟨0#32, false⟩ ∧ shiftReg cin .lsr m b = ⟨0#32, false⟩) ∧
    (32 ≤ b.toNat → shiftReg cin .asr m b = ⟨BitVec.ofInt 32 (m.toInt / 2 ^ b.toNat), m.getLsbD 31⟩ ∧
      (∀ j : Nat, j < 32 → (shiftReg cin .ror m b).value.getLsbD j = m.getLsbD ((j + b.toNat) % 32)) ∧
      (shiftReg cin .ror m b).carry = m.getLsbD ((b.toNat + 31) % 32))

/-! ## Multiplies -/

/-- R220 to R223: MUL and MLA: the low 32 bits; with S=1 N and Z of the result, V kept and C left open; with S=0 no
flag changes. The value of C after S=1 is a free value: the statement says nothing of it (log 5). -/
def Obligations.Multiply : Prop :=
  ∀ (c : Cond) (sf : Bool) (rd rn rs rm : Reg) (s : State), condPassed c s.cpsr.flags = true → rd ≠ rm →
    rd ≠ 15#4 → rs ≠ 15#4 → rm ≠ 15#4 →
    let after (r : Word) (t : State) : Prop :=
      WritesReg s t rd r ∧ t.cpsr.flags.v = s.cpsr.flags.v ∧
      (if sf then t.cpsr.flags.n = r.getLsbD 31 ∧ t.cpsr.flags.z = decide (r = 0#32)
       else t.cpsr.flags = s.cpsr.flags) ∧
      t.cpsr = { s.cpsr with flags := t.cpsr.flags } ∧ t.pc = s.pc + 4 ∧ SameMemory s t ∧ SameRest s t
    (∃ t : State, exec (.mul c sf rd rs rm) s = .next t ∧
      after (BitVec.ofNat 32 ((s.reg rm 8).toNat * (s.reg rs 8).toNat)) t) ∧
    (rn ≠ 15#4 → ∃ t : State, exec (.mla c sf rd rn rs rm) s = .next t ∧
      after (BitVec.ofNat 32 ((s.reg rm 8).toNat * (s.reg rs 8).toNat + (s.reg rn 8).toNat)) t)

/-- R227 to R232: the four long multiplies: the exact 64bit product, signed or unsigned, plus the old RdHi:RdLo for the
accumulating ones, modulo 2^64; with S=1 N and Z of the 64 bits, C and V left open (free values, log 5). That N and Z
are those of the whole 64 bits is what R228 takes from general knowledge (PRESUMED, log 18). -/
def Obligations.LongMultiply : Prop :=
  ∀ (c : Cond) (sf : Bool) (hi lo rs rm : Reg) (s : State), condPassed c s.cpsr.flags = true →
    hi ≠ lo → hi ≠ rm → lo ≠ rm → hi ≠ 15#4 → lo ≠ 15#4 → rs ≠ 15#4 → rm ≠ 15#4 →
    let acc : Int := (s.reg hi 8).toNat * 2 ^ 32 + (s.reg lo 8).toNat
    let uns : Int := (s.reg rm 8).toNat * (s.reg rs 8).toNat
    let sig : Int := (s.reg rm 8).toInt * (s.reg rs 8).toInt
    let after (x : Int) (t : State) : Prop :=
      let r : BitVec 64 := BitVec.ofInt 64 x
      (∀ g : GReg, t.regs.get g =
        if physical s.cpsr.mode hi = some g then r.extractLsb' 32 32
        else if physical s.cpsr.mode lo = some g then r.extractLsb' 0 32 else s.regs.get g) ∧
      (if sf then t.cpsr.flags.n = r.getLsbD 63 ∧ t.cpsr.flags.z = decide (r = 0#64)
       else t.cpsr.flags = s.cpsr.flags) ∧
      t.cpsr = { s.cpsr with flags := t.cpsr.flags } ∧ t.pc = s.pc + 4 ∧ SameMemory s t ∧ SameRest s t
    (∃ t : State, exec (.umull c sf hi lo rs rm) s = .next t ∧ after uns t) ∧
    (∃ t : State, exec (.umlal c sf hi lo rs rm) s = .next t ∧ after (uns + acc) t) ∧
    (∃ t : State, exec (.smull c sf hi lo rs rm) s = .next t ∧ after sig t) ∧
    (∃ t : State, exec (.smlal c sf hi lo rs rm) s = .next t ∧ after (sig + acc) t)

/-! ## PSR transfers -/

/-- R240: MRS in every mode reads the CPSR, and the SPSR in a mode that has one: bits 31-28 and 7-0; nothing is said of
bits 27-8, which are free values (R36, log 5). -/
def Obligations.MrsReads : Prop :=
  ∀ (c : Cond) (spsr : Bool) (rd : Reg) (s : State) (p : Psr), condPassed c s.cpsr.flags = true → rd ≠ 15#4 →
    (if spsr then s.spsrs.get? s.cpsr.mode = some p else p = s.cpsr.saved) →
    ∃ (t : State) (v : Word), exec (.mrs c spsr rd) s = .next t ∧ WritesReg s t rd v ∧
      v.getLsbD 31 = p.flags.n ∧ v.getLsbD 30 = p.flags.z ∧ v.getLsbD 29 = p.flags.c ∧ v.getLsbD 28 = p.flags.v ∧
      v.getLsbD 7 = p.i ∧ v.getLsbD 6 = p.f ∧ v.getLsbD 5 = p.t ∧ v.extractLsb' 0 5 = p.m ∧
      t.cpsr = s.cpsr ∧ t.pc = s.pc + 4 ∧ SameMemory s t ∧ SameRest s t

/-- R241 to R246: MSR to the CPSR, register and immediate form, in a privileged mode: with f the flags, with c I, F and
the mode, when the word names a legal mode and does not change T. -/
def Obligations.MsrCpsrPrivileged : Prop :=
  ∀ (c : Cond) (m : FieldMask) (rm : Reg) (o : Op2Imm) (s : State) (mode : Mode),
    condPassed c s.cpsr.flags = true → s.cpsr.mode ≠ .usr → rm ≠ 15#4 →
    ∀ (i : Instr) (w : Word), (i = .msrReg c false m rm ∧ w = s.reg rm 8 ∨ i = .msrImm c false m o ∧ w = Op2Imm.value o) →
    (m.c = true → w.getLsbD 5 = s.cpsr.t ∧ mode.bits = w.extractLsb' 0 5) → (m.c = false → mode = s.cpsr.mode) →
    ∃ t : State, exec i s = .next t ∧
      t.cpsr.flags = (if m.f then ⟨w.getLsbD 31, w.getLsbD 30, w.getLsbD 29, w.getLsbD 28⟩ else s.cpsr.flags) ∧
      t.cpsr.i = (if m.c then w.getLsbD 7 else s.cpsr.i) ∧ t.cpsr.f = (if m.c then w.getLsbD 6 else s.cpsr.f) ∧
      t.cpsr.t = s.cpsr.t ∧ t.cpsr.mode = mode ∧ SameRegs s t ∧ t.pc = s.pc + 4 ∧ SameMemory s t ∧ SameRest s t

/-- R245: in User mode MSR to the CPSR writes the flags with f and drops every other part, whatever the word and the
mask; it does not trap. -/
def Obligations.MsrCpsrUser : Prop :=
  ∀ (c : Cond) (m : FieldMask) (rm : Reg) (o : Op2Imm) (s : State), condPassed c s.cpsr.flags = true →
    s.cpsr.mode = .usr → rm ≠ 15#4 →
    ∀ (i : Instr) (w : Word), (i = .msrReg c false m rm ∧ w = s.reg rm 8 ∨ i = .msrImm c false m o ∧ w = Op2Imm.value o) →
    ∃ t : State, exec i s = .next t ∧
      t.cpsr = { s.cpsr with
        flags := if m.f then ⟨w.getLsbD 31, w.getLsbD 30, w.getLsbD 29, w.getLsbD 28⟩ else s.cpsr.flags } ∧
      SameRegs s t ∧ t.pc = s.pc + 4 ∧ SameMemory s t ∧ SameRest s t

/-- R243, R248: MSR to the SPSR of a mode that has one: the bytes the mask selects, any mode bits and any T; the CPSR
and every other SPSR are unchanged. -/
def Obligations.MsrSpsr : Prop :=
  ∀ (c : Cond) (m : FieldMask) (rm : Reg) (o : Op2Imm) (s : State) (p : Psr), condPassed c s.cpsr.flags = true →
    s.spsrs.get? s.cpsr.mode = some p → rm ≠ 15#4 →
    ∀ (i : Instr) (w : Word), (i = .msrReg c true m rm ∧ w = s.reg rm 8 ∨ i = .msrImm c true m o ∧ w = Op2Imm.value o) →
    ∃ t : State, exec i s = .next t ∧
      t.spsrs.get? s.cpsr.mode = some
        { flags := if m.f then ⟨w.getLsbD 31, w.getLsbD 30, w.getLsbD 29, w.getLsbD 28⟩ else p.flags
          i := if m.c then w.getLsbD 7 else p.i
          f := if m.c then w.getLsbD 6 else p.f
          t := if m.c then w.getLsbD 5 else p.t
          m := if m.c then w.extractLsb' 0 5 else p.m } ∧
      (∀ m' : Mode, m' ≠ s.cpsr.mode → t.spsrs.get? m' = s.spsrs.get? m') ∧
      t.cpsr = s.cpsr ∧ SameRegs s t ∧ t.pc = s.pc + 4 ∧ SameMemory s t ∧ t.platform = s.platform

/-- R39, R241, R242, R246: in a privileged mode an MSR of the control field, register or immediate form, that would change
T is refused, and one that names no legal mode is refused. -/
def Obligations.MsrRefused : Prop :=
  ∀ (c : Cond) (m : FieldMask) (rm : Reg) (o : Op2Imm) (s : State), condPassed c s.cpsr.flags = true →
    s.cpsr.mode ≠ .usr → rm ≠ 15#4 → m.c = true →
    ∀ (i : Instr) (w : Word), (i = .msrReg c false m rm ∧ w = s.reg rm 8 ∨ i = .msrImm c false m o ∧ w = Op2Imm.value o) →
    (w.getLsbD 5 ≠ s.cpsr.t → exec i s = .refused .tChangedByMsr) ∧
    (w.getLsbD 5 = s.cpsr.t → (∀ m' : Mode, m'.bits ≠ w.extractLsb' 0 5) → exec i s = .refused .illegalMode)

/-! ## ARM branches -/

/-- R150, R151, R154: B, BL and BX. -/
def Obligations.ArmBranches : Prop :=
  ∀ (c : Cond) (off : BitVec 24) (rn : Reg) (s : State), condPassed c s.cpsr.flags = true →
    (∃ t : State, exec (.b c off) s = .next t ∧ t.pc = s.pc + 8 + BitVec.ofInt 32 (off.toInt * 4) ∧
      t.cpsr = s.cpsr ∧ SameRegs s t ∧ SameMemory s t ∧ SameRest s t) ∧
    (∃ t : State, exec (.bl c off) s = .next t ∧ t.pc = s.pc + 8 + BitVec.ofInt 32 (off.toInt * 4) ∧
      WritesReg s t 14#4 (s.pc + 4) ∧ t.cpsr = s.cpsr ∧ SameMemory s t ∧ SameRest s t) ∧
    (rn = 15#4 → exec (.bx c rn) s = .refused .bxR15) ∧
    (rn ≠ 15#4 → ∃ t : State, exec (.bx c rn) s = .next t ∧
      t.cpsr = { s.cpsr with t := (s.reg rn 8).getLsbD 0 } ∧
      t.pc.toNat = (if (s.reg rn 8).getLsbD 0 then (s.reg rn 8).toNat / 2 * 2 else (s.reg rn 8).toNat / 4 * 4) ∧
      SameRegs s t ∧ SameMemory s t ∧ SameRest s t)

/-! ## ARM transfers -/

/-- R260 to R271, R274, R275: LDR, LDRB and their T forms in every addressing form: the value, the write-back, nothing
else; into R15 (R266) they branch to the value with its low two bits clear and leave T alone. -/
def Obligations.SingleLoads : Prop :=
  ∀ (op : SingleOp) (f : SingleForm) (c : Cond) (up : Bool) (rn rd : Reg) (s : State), op = .ldr ∨ op = .ldrb →
    condPassed c s.cpsr.flags = true → f.allowed rn rd →
    ReachesRam s .read (f.user s) (f.ea up rn s) (op.address (f.ea up rn s)) op.width →
    ∃ t : State, exec (op.instr c up rn rd f) s = .next t ∧
      (if rd = 15#4 then
        t.pc.toNat = (op.loaded s (f.ea up rn s)).toNat / 4 * 4 ∧ WritesBase s t rn f.wb (f.idx up rn s)
       else t.pc = s.pc + 4 ∧
        WritesRegAndBase s t rd (op.loaded s (f.ea up rn s)) rn f.wb (f.idx up rn s)) ∧
      t.cpsr = s.cpsr ∧ SameMemory s t ∧ SameRest s t

/-- R260 to R266, R272, R273, R276, R277: STR, STRB and their T forms in every addressing form, R15 stored as pc+12: the
bytes stored at the rounded-down address, the write-back, nothing else. -/
def Obligations.SingleStores : Prop :=
  ∀ (op : SingleOp) (f : SingleForm) (c : Cond) (up : Bool) (rn rd : Reg) (s : State), op = .str ∨ op = .strb →
    condPassed c s.cpsr.flags = true → f.allowed rn rd → s.mem.wf = true →
    ReachesRam s .write (f.user s) (f.ea up rn s) (op.address (f.ea up rn s)) op.width →
    ∃ t : State, exec (op.instr c up rn rd f) s = .next t ∧
      Holds t (op.address (f.ea up rn s)) op.width (s.reg rd 12) ∧
      SameMemoryOutside s t (op.address (f.ea up rn s)).toNat (widthBytes op.width) ∧
      WritesBase s t rn f.wb (f.idx up rn s) ∧ t.cpsr = s.cpsr ∧ t.pc = s.pc + 4 ∧ SameRest s t

/-- R290 to R292, R296 to R298: LDRH, LDRSB, LDRSH with both offsets, Rd not R15, at every alignment; into R15 they
branch (R292). -/
def Obligations.HalfwordLoads : Prop :=
  ∀ (op : HalfLoad) (f : HalfForm) (c : Cond) (ix : HalfIndex) (up : Bool) (rn rd : Reg) (s : State),
    condPassed c s.cpsr.flags = true → f.allowed ix rn rd →
    ReachesRam s .read s.userMode (f.ea ix up rn s) (op.address (f.ea ix up rn s))
      (op.width (f.ea ix up rn s)) →
    ∃ t : State, exec (op.instr c ix up rn rd f) s = .next t ∧
      (if rd = 15#4 then
        t.pc.toNat = (op.loaded s (f.ea ix up rn s)).toNat / 4 * 4 ∧
          WritesBase s t rn ix.writesBack (f.idx up rn s)
       else t.pc = s.pc + 4 ∧
          WritesRegAndBase s t rd (op.loaded s (f.ea ix up rn s)) rn ix.writesBack (f.idx up rn s)) ∧
      t.cpsr = s.cpsr ∧ SameMemory s t ∧ SameRest s t

/-- R290 to R292, R295: STRH with both offsets: the low halfword at the rounded-down address. -/
def Obligations.HalfwordStores : Prop :=
  ∀ (f : HalfForm) (c : Cond) (ix : HalfIndex) (up : Bool) (rn rd : Reg) (s : State),
    condPassed c s.cpsr.flags = true → f.allowed ix rn rd → s.mem.wf = true →
    ReachesRam s .write s.userMode (f.ea ix up rn s) (alignHalf (f.ea ix up rn s)) .half →
    ∃ t : State, exec (strhInstr c ix up rn rd f) s = .next t ∧
      Holds t (alignHalf (f.ea ix up rn s)) .half (s.reg rd 12) ∧
      SameMemoryOutside s t (alignHalf (f.ea ix up rn s)).toNat 2 ∧
      WritesBase s t rn ix.writesBack (f.idx up rn s) ∧ t.cpsr = s.cpsr ∧ t.pc = s.pc + 4 ∧ SameRest s t

/-! ## Block transfers and swap -/

/-- R312 to R319, R493 to R503: STM, STM^, PUSH, STMIA: each listed register's word at its address, the base written
back, every other byte and register unchanged. That the accesses of STM^ have the privilege of the current mode is the
model's choice (DESIGN CHOICE, log 7). That STM stores R15 as pc+12 is what R316 takes from general knowledge
(PRESUMED, log 18). -/
def Obligations.StoreMultiple : Prop :=
  ∀ (i : Instr) (b : BlockView) (s : State), i.wellFormed = true → condHolds i s → storeView s i = some b →
    s.mem.wf = true → b.ram s .write →
    ∃ t : State, exec i s = .next t ∧
      (∀ r : Reg, b.list.getLsbD r.toNat = true → Holds t (b.address r.toNat) .word (b.stored s r)) ∧
      (∀ a : Nat, (∀ k : Nat, k < 16 → b.list.getLsbD k = true →
        a < (b.address k).toNat ∨ (b.address k).toNat + 4 ≤ a) → t.mem.get a = s.mem.get a) ∧
      WritesBase s t b.base b.wb b.newBase ∧ t.cpsr = s.cpsr ∧ t.pc = s.pc + b.size ∧ SameRest s t

/-- R312, R315, R318, R319, R493 to R503: LDM, LDM^ without R15, POP, LDMIA without R15 in the list: each listed
register, in the bank of the list, holds the word at its address; the base is written back unless it is listed; only
LDM^ sets the user-LDM mark. That it sets the mark also in User and System mode, where R318 says that it behaves as with
S=0, is the model's reading (DEDUCED, log 11); that its accesses have the privilege of the current mode is the model's
choice (DESIGN CHOICE, log 7). -/
def Obligations.LoadMultiple : Prop :=
  ∀ (i : Instr) (b : BlockView) (s : State), i.wellFormed = true → condHolds i s → loadView s i = some b →
    b.list.getLsbD 15 = false → b.ram s .read →
    ∃ t : State, exec i s = .next t ∧ b.loadedRegs s t ∧ t.cpsr = s.cpsr ∧ t.pc = s.pc + b.size ∧ SameMemory s t ∧
      t.spsrs = s.spsrs ∧ t.platform = s.platform ∧
      ((∃ (c : Cond) (pre up wb : Bool) (rn : Reg) (l : BitVec 15), i = .ldmUserS c pre up wb rn l) →
        t.userLdm = true) ∧
      ((∀ (c : Cond) (pre up wb : Bool) (rn : Reg) (l : BitVec 15), i ≠ .ldmUserS c pre up wb rn l) →
        t.userLdm = s.userLdm)

/-- R315, R495: LDM and POP with R15 in the list load the other registers likewise and branch to the last word, aligned
by the current state (4 in ARM, 2 in THUMB); T is unchanged. -/
def Obligations.LoadMultipleToPc : Prop :=
  ∀ (i : Instr) (b : BlockView) (s : State), i.wellFormed = true → condHolds i s → loadView s i = some b →
    b.list.getLsbD 15 = true → b.ram s .read →
    ∃ t : State, exec i s = .next t ∧ b.loadedRegs s t ∧ t.cpsr = s.cpsr ∧
      t.pc.toNat = (s.mem.read (b.address 15) .word).toNat / b.size.toNat * b.size.toNat ∧ SameMemory s t ∧
      SameRest s t

/-- R317: LDM^ with R15: the other registers and the base in the old mode, then CPSR <- SPSR and the PC aligned by the
restored T. -/
def Obligations.LdmExceptionReturn : Prop :=
  ∀ (c : Cond) (pre up wb : Bool) (rn : Reg) (list : BitVec 15) (s : State) (p : Psr) (m : Mode),
    condPassed c s.cpsr.flags = true → rn ≠ 15#4 → s.spsrs.get? s.cpsr.mode = some p → m.bits = p.m →
    let full : BitVec 16 := BitVec.ofNat 16 (list.toNat + 2 ^ 15)
    let b := armBlockView s s.cpsr.mode pre up wb rn full
    b.ram s .read →
    ∃ t : State, exec (.ldmPcS c pre up wb rn list) s = .next t ∧ b.loadedRegs s t ∧
      t.cpsr = { flags := p.flags, i := p.i, f := p.f, t := p.t, mode := m } ∧
      t.pc = (if p.t then alignHalf else alignWord) (s.mem.read (b.address 15) .word) ∧ SameMemory s t ∧ SameRest s t

/-- R340 to R342: SWP and SWPB: Rd receives the word (rotated when misaligned) or the byte, memory Rm's old value
(unrotated), also when Rd is Rm or Rn; the platform is asked with the address not rounded down (DEDUCED,
log 7). -/
def Obligations.Swap : Prop :=
  ∀ (c : Cond) (rn rd rm : Reg) (s : State), condPassed c s.cpsr.flags = true → rn ≠ 15#4 → rd ≠ 15#4 → rm ≠ 15#4 →
    s.mem.wf = true →
    ∀ (op : SingleOp) (i : Instr), (op = .ldr ∧ i = .swp c rn rd rm ∨ op = .ldrb ∧ i = .swpb c rn rd rm) →
    ReachesRam s .read s.userMode (s.reg rn 8) (op.address (s.reg rn 8)) op.width →
    ReachesRam s .write s.userMode (s.reg rn 8) (op.address (s.reg rn 8)) op.width →
    ∃ t : State, exec i s = .next t ∧ WritesReg s t rd (op.loaded s (s.reg rn 8)) ∧
      Holds t (op.address (s.reg rn 8)) op.width (s.reg rm 8) ∧
      SameMemoryOutside s t (op.address (s.reg rn 8)).toNat (widthBytes op.width) ∧
      t.cpsr = s.cpsr ∧ t.pc = s.pc + 4 ∧ SameRest s t

/-! ## Coprocessors that are attached -/

/-- R351 to R354: MRC, MCR and CDP with the coprocessor attached. What it answers to MRC is the coprocessor's own: the open
value `Config.coprocMrc` of what it was sent so far (log 9); in the flags with Rd=R15, else in Rd. MCR sends Rd, R15 as
pc+12. Each is noted among what the coprocessors were sent. -/
def Obligations.CoprocessorRegisters : Prop :=
  ∀ (c : Cond) (p : BitVec 4) (op : CoprocRegOp) (rd : Reg) (o4 cd cn cm : BitVec 4) (cp : BitVec 3) (s : State),
    condPassed c s.cpsr.flags = true → p ∈ s.platform.coprocs →
    (let v : Word := Config.coprocMrc s.coprocLog p op
     ∃ t : State, exec (.mrc c p op rd) s = .next t ∧ WritesReg s t rd v ∧
      t.cpsr = { s.cpsr with
        flags := if rd = 15#4 then ⟨v.getLsbD 31, v.getLsbD 30, v.getLsbD 29, v.getLsbD 28⟩ else s.cpsr.flags } ∧
      t.pc = s.pc + 4 ∧ SameMemory s t ∧ SameRest { s with coprocLog := .mrc p op :: s.coprocLog } t) ∧
    (∃ t : State, exec (.mcr c p op rd) s = .next t ∧ SameRegs s t ∧ t.cpsr = s.cpsr ∧ t.pc = s.pc + 4 ∧
      SameMemory s t ∧
      SameRest { s with coprocLog := .mcr p op (if rd = 15#4 then s.pc + 12 else s.reg rd 0) :: s.coprocLog } t) ∧
    (∃ t : State, exec (.cdp c p o4 cd cn cm cp) s = .next t ∧ SameRegs s t ∧ t.cpsr = s.cpsr ∧ t.pc = s.pc + 4 ∧
      SameMemory s t ∧ SameRest { s with coprocLog := .cdp p o4 cd cn cm cp :: s.coprocLog } t)

/-- R355, R356: LDC and STC with the coprocessor attached complete when each of their words reaches RAM (so always on a
platform with no abort range and no device window): as many words as the coprocessor asks for (the open number
`Config.coprocCount`, log 9) move at ascending addresses from `ea`, rounded down. LDC hands the words read to the
coprocessor; STC stores the words it answers (the open values `Config.coprocStc`, log 9), each at its address unless the
word 2^30 places on, which has the same address, overwrites it. The base is written back exactly when W=1; no other byte
and no other register changes. -/
def Obligations.CoprocessorMemory : Prop :=
  ∀ (c : Cond) (pre up long wb : Bool) (rn : Reg) (cd p : BitVec 4) (off : BitVec 8) (s : State),
    condPassed c s.cpsr.flags = true → p ∈ s.platform.coprocs → (wb = true → rn ≠ 15#4) →
    let n := Config.coprocCount s.coprocLog p long cd
    let address := coprocAddress pre up rn off s
    let words := (List.range n).map fun k => s.mem.read (address k) .word
    ((∀ k : Nat, k < n → ReachesRam s .read s.userMode (address k) (address k) .word) →
      ∃ t : State, exec (.ldc c pre up long wb rn cd p off) s = .next t ∧
        WritesBase s t rn wb (coprocIdx up rn off s) ∧ t.cpsr = s.cpsr ∧ t.pc = s.pc + 4 ∧ SameMemory s t ∧
        SameRest { s with coprocLog := .ldc p long cd words :: s.coprocLog } t) ∧
    ((∀ k : Nat, k < n → ReachesRam s .write s.userMode (address k) (address k) .word) →
      ∃ t : State, exec (.stc c pre up long wb rn cd p off) s = .next t ∧
        (s.mem.wf = true → ∀ k : Nat, k < n → n ≤ k + 2 ^ 30 →
          Holds t (address k) .word (Config.coprocStc s.coprocLog p long cd k)) ∧
        (∀ a : Nat, (∀ k : Nat, k < n → a < (address k).toNat ∨ (address k).toNat + 4 ≤ a) →
          t.mem.get a = s.mem.get a) ∧
        WritesBase s t rn wb (coprocIdx up rn off s) ∧ t.cpsr = s.cpsr ∧ t.pc = s.pc + 4 ∧
        SameRest { s with coprocLog := .stc p long cd n :: s.coprocLog } t)

/-! ## THUMB -/

/-- R381 to R412, R422: the arithmetic, logical and move operations of formats 2, 3 and 4, and the compares of formats
3, 4 and 5: result, all four flags (the logical ones keep C and V), nothing else. C and V of the arithmetic ones are
the formulas that R181 takes from general knowledge (its decision D15; PRESUMED, log 18). -/
def Obligations.ThumbDataProcessing : Prop :=
  (∀ (i : Instr) (op : AluOp) (rd : LoReg) (a b : Word) (s : State), thumbAluView s i = some (op, rd, a, b) →
    ∃ t : State, exec i s = .next t ∧ WritesReg s t (lo rd) (op.result a b s.cpsr.flags.c) ∧
      t.cpsr = { s.cpsr with flags := op.flags s.cpsr.flags a b s.cpsr.flags.c } ∧
      t.pc = s.pc + 2 ∧ SameMemory s t ∧ SameRest s t) ∧
  (∀ (i : Instr) (op : AluOp) (a b : Word) (s : State), thumbCompareView s i = some (op, a, b) →
    ∃ t : State, exec i s = .next t ∧ SameRegs s t ∧
      t.cpsr = { s.cpsr with flags := op.flags s.cpsr.flags a b s.cpsr.flags.c } ∧
      t.pc = s.pc + 2 ∧ SameMemory s t ∧ SameRest s t)

/-- R376 to R378, R399 to R404, R410: the shifts of formats 1 and 4 with N, Z and the shifter carry, V kept; MUL with N
and Z, V kept, and C left open (a free value, log 5). The shifter carry of R171 and the register shifts by 32 and more
of R396 are from general knowledge (D14; PRESUMED, log 18). -/
def Obligations.ThumbShiftsAndMultiply : Prop :=
  (∀ (i : Instr) (rd : LoReg) (r : Shifted) (s : State), thumbShiftView s i = some (rd, r) →
    ∃ t : State, exec i s = .next t ∧ WritesReg s t (lo rd) r.value ∧
      t.cpsr = { s.cpsr with
        flags := ⟨r.value.getLsbD 31, decide (r.value = 0#32), r.carry, s.cpsr.flags.v⟩ } ∧
      t.pc = s.pc + 2 ∧ SameMemory s t ∧ SameRest s t) ∧
  (∀ (rs rd : LoReg) (s : State),
    let r : Word := BitVec.ofNat 32 ((s.reg (lo rd) 4).toNat * (s.reg (lo rs) 4).toNat)
    ∃ t : State, exec (.tMul rs rd) s = .next t ∧ WritesReg s t (lo rd) r ∧
      t.cpsr = { s.cpsr with
        flags := ⟨r.getLsbD 31, decide (r = 0#32), t.cpsr.flags.c, s.cpsr.flags.v⟩ } ∧
      t.pc = s.pc + 2 ∧ SameMemory s t ∧ SameRest s t)

/-- R421, R423, R485, R486, R489, R490: format 5 ADD and MOV and formats 12 and 13: one register or, with R15, the PC
aligned to 2; no flags. -/
def Obligations.ThumbMoves : Prop :=
  ∀ (i : Instr) (rd : Reg) (v : Word) (s : State), thumbMoveView s i = some (rd, v) →
    ∃ t : State, exec i s = .next t ∧ WritesReg s t rd v ∧ t.cpsr = s.cpsr ∧
      (if rd = 15#4 then t.pc.toNat = v.toNat / 2 * 2 else t.pc = s.pc + 2) ∧ SameMemory s t ∧ SameRest s t

/-- R452 to R482: the loads of formats 6 to 11 at every alignment; the platform is asked with the address not rounded
down (DEDUCED, log 7). -/
def Obligations.ThumbLoads : Prop :=
  ∀ (i : Instr) (k : LoadKind) (rd : LoReg) (ea : Word) (s : State), thumbLoadView s i = some (k, rd, ea) →
    ReachesRam s .read s.userMode ea (k.address ea) (k.width ea) →
    ∃ t : State, exec i s = .next t ∧ WritesReg s t (lo rd) (loadedValue s k ea) ∧ t.cpsr = s.cpsr ∧
      t.pc = s.pc + 2 ∧ SameMemory s t ∧ SameRest s t

/-- R456 to R481: the stores of formats 7 to 11: the low bytes of Rd at the rounded-down address; the
platform is asked with the address not rounded down (DEDUCED, log 7). -/
def Obligations.ThumbStores : Prop :=
  ∀ (i : Instr) (k : StoreKind) (rd : LoReg) (ea : Word) (s : State), thumbStoreView s i = some (k, rd, ea) →
    s.mem.wf = true → ReachesRam s .write s.userMode ea (k.address ea) k.width →
    ∃ t : State, exec i s = .next t ∧ Holds t (k.address ea) k.width (s.reg (lo rd) 4) ∧
      SameMemoryOutside s t (k.address ea).toNat (widthBytes k.width) ∧ SameRegs s t ∧ t.cpsr = s.cpsr ∧
      t.pc = s.pc + 2 ∧ SameRest s t

/-- R510, R518: the fourteen conditional branches, taken and not taken, and B. -/
def Obligations.ThumbBranches : Prop :=
  (∀ (i : Instr) (c : Cond) (off : BitVec 8) (s : State), thumbBranchView i = some (c, off) →
    ∃ t : State, exec i s = .next t ∧
      t.pc = (if condPassed c s.cpsr.flags then s.pc + 4 + BitVec.ofInt 32 (off.toInt * 2) else s.pc + 2) ∧
      SameRegs s t ∧ t.cpsr = s.cpsr ∧ SameMemory s t ∧ SameRest s t) ∧
  (∀ (off : BitVec 11) (s : State), ∃ t : State, exec (.tB off) s = .next t ∧
    t.pc = s.pc + 4 + BitVec.ofInt 32 (off.toInt * 2) ∧ SameRegs s t ∧ t.cpsr = s.cpsr ∧ SameMemory s t ∧
    SameRest s t)

/-- R520, R521, R522: each half of BL alone, and the two halves one after the other from an aligned PC A: the target is
A + 4 + (sext(high) << 12) + (low << 1) and LR is (A + 4) OR 1; no other register changes. The sign extension of the high
half is the spec's inference (R122), and that the halves are two instructions its decision D17 (R522). -/
def Obligations.ThumbBl : Prop :=
  ∀ (high low : BitVec 11) (s : State),
    (∃ t : State, exec (.tBlFirst high) s = .next t ∧
      WritesReg s t 14#4 (s.pc + 4 + BitVec.ofInt 32 (high.toInt * 2 ^ 12)) ∧ t.pc = s.pc + 2 ∧ t.cpsr = s.cpsr ∧
      SameMemory s t ∧ SameRest s t) ∧
    (∃ t : State, exec (.tBlSecond low) s = .next t ∧
      WritesReg s t 14#4 ((s.pc + 2) ||| 1#32) ∧
      t.pc.toNat = (s.reg 14#4 0 + BitVec.ofNat 32 (low.toNat * 2)).toNat / 2 * 2 ∧ t.cpsr = s.cpsr ∧
      SameMemory s t ∧ SameRest s t) ∧
    (s.pc.toNat % 2 = 0 →
      ∃ u t : State, exec (.tBlFirst high) s = .next u ∧ exec (.tBlSecond low) u = .next t ∧
        t.pc = s.pc + 4 + BitVec.ofInt 32 (high.toInt * 2 ^ 12) + BitVec.ofNat 32 (low.toNat * 2) ∧
        WritesReg s t 14#4 ((s.pc + 4) ||| 1#32) ∧ t.cpsr = s.cpsr ∧ SameMemory s t)

/-- R428: BX Rs for every Rs; R15 reads (pc+4) with bit 1 clear. -/
def Obligations.ThumbBx : Prop :=
  ∀ (rs : Reg) (s : State),
    let v : Word := if rs = 15#4 then clearBit1 (s.pc + 4) else s.reg rs 4
    ∃ t : State, exec (.tBx rs) s = .next t ∧ t.cpsr = { s.cpsr with t := v.getLsbD 0 } ∧
      t.pc.toNat = (if v.getLsbD 0 then v.toNat / 2 * 2 else v.toNat / 4 * 4) ∧
      SameRegs s t ∧ SameMemory s t ∧ SameRest s t

/-! ## Registers and memory -/

/-- R22: a register written in one mode reads the same in another exactly when both modes name one physical register;
R8 to R12 are shared by all modes but FIQ, R13 and R14 by User and System only, R0 to R7 by all. -/
def Obligations.Banking : Prop :=
  ∀ (s : State) (m m' : Mode) (i : Reg) (v a : Word), i ≠ 15#4 →
    (s.setRegIn m i v).regIn m' i a =
      (if m = m' ∨ i.toNat < 8 ∨ (i.toNat < 13 ∧ m ≠ .fiq ∧ m' ≠ .fiq) ∨
          ((m = .usr ∨ m = .sys) ∧ (m' = .usr ∨ m' = .sys))
       then v else s.regIn m' i a)

/-- R61, R80: a value written at an address is read back from it at the same width, its low 8n bits, when the access
lies inside the address space; an access of another place is not affected. -/
def Obligations.MemoryReadBack : Prop :=
  ∀ (m : Memory) (a b : Word) (w w' : Width) (v : Word), m.wf = true → a.toNat + widthBytes w ≤ 2 ^ 32 →
    (m.write a w v).read a w = v &&& BitVec.ofNat 32 (2 ^ (8 * widthBytes w) - 1) ∧
    (b.toNat + widthBytes w' ≤ a.toNat ∨ a.toNat + widthBytes w ≤ b.toNat →
      (m.write a w v).read b w' = m.read b w')
end

