-- ==== Sys2Proof/Laws/Alu.lean ====
section
/-! SUPPORT. The sixteen opcodes: the machine's ALU functions agree with exact arithmetic (`AluOp.fn_eq`). -/

namespace Sys2Proof.Machine

theorem addResult_eq (a b : Word) (c : Bool) : addResult a b c = a + b + BitVec.ofNat 32 c.toNat := by
  apply BitVec.eq_of_toNat_eq
  simp [addResult, usum]

/-- The overflow of an addition is that its exact signed sum leaves 32 bits (R181). -/
theorem addOverflow_eq (a b : Word) (c : Bool) : addOverflow a b c = outOfRange (a.toInt + b.toInt + c.toNat) := by
  have hr : (addResult a b c).toInt = (ssum a b c).bmod (2 ^ 32) := by
    rw [addResult_eq, BitVec.toInt_add, BitVec.toInt_add]
    cases c <;> simp [ssum]
  have ha := BitVec.toInt_lt (x := a)
  have ha' := BitVec.le_toInt (x := a)
  have hb := BitVec.toInt_lt (x := b)
  have hb' := BitVec.le_toInt (x := b)
  have hc : c.toNat ≤ 1 := by cases c <;> simp
  have hs : ssum a b c = a.toInt + b.toInt + c.toNat := rfl
  simp only [addOverflow, outOfRange, hr, ← Bool.decide_or, decide_eq_decide, hs]
  constructor
  · intro hne
    by_contra hin
    rw [not_or] at hin
    exact hne (by rw [Int.bmod_eq_of_le] <;> omega)
  · rintro hout he
    have h1 := Int.bmod_lt (x := a.toInt + b.toInt + c.toNat) (m := 2 ^ 32) (by decide)
    have h2 := Int.le_bmod (x := a.toInt + b.toInt + c.toNat) (m := 2 ^ 32) (by decide)
    omega

theorem not_toInt (b : Word) : (~~~b).toInt = -b.toInt - 1 := by
  simp only [BitVec.toInt_eq_toNat_cond, BitVec.toNat_not]
  have := b.isLt
  split <;> split <;> omega

theorem add_not_one (a b : Word) : a + ~~~b + 1 = a - b := by
  apply BitVec.eq_of_toNat_eq
  have := b.isLt
  simp [BitVec.toNat_sub]
  omega

/-- The carry of a subtraction is that nothing is borrowed (R183). -/
theorem addCarry_not (a b : Word) (c : Bool) :
    addCarry a (~~~b) c = decide (b.toNat + 1 ≤ a.toNat + c.toNat) := by
  simp only [addCarry, usum, BitVec.toNat_not, decide_eq_decide]
  have := b.isLt
  omega

theorem addOverflow_not (a b : Word) (c : Bool) :
    addOverflow a (~~~b) c = outOfRange (a.toInt - b.toInt + c.toNat - 1) := by
  rw [addOverflow_eq, not_toInt]
  congr 1
  omega

theorem add_not_carry (a b : Word) (c : Bool) :
    a + ~~~b + BitVec.ofNat 32 c.toNat = a - b + BitVec.ofNat 32 c.toNat - 1 := by
  rw [← add_not_one a b, BitVec.add_assoc (a + ~~~b) 1, BitVec.add_comm 1, ← BitVec.add_assoc, BitVec.add_sub_cancel]

/-- The machine's function of each opcode. -/
def AluOp.fn : AluOp → AluFn
  | .and | .tst => aluAnd
  | .eor | .teq => aluEor
  | .sub | .cmp => aluSub
  | .rsb => aluRsb
  | .add | .cmn => aluAdd
  | .adc => aluAdc
  | .sbc => aluSbc
  | .rsc => aluRsc
  | .orr => aluOrr
  | .mov => aluMov
  | .bic => aluBic
  | .mvn => aluMvn

/-- Each opcode's function gives the exact result and flags. -/
theorem AluOp.fn_eq (op : AluOp) (p : Nzcv) (a b : Word) (sc : Bool) :
    op.fn p a ⟨b, sc⟩ = ⟨op.result a b p.c, op.flags p a b sc⟩ := by
  have hz (r : Word) : (r == 0#32) = decide (r = 0#32) := rfl
  cases op <;>
    simp only [AluOp.fn, aluAnd, aluEor, aluSub, aluRsb, aluAdd, aluAdc, aluSbc, aluRsc, aluOrr, aluMov, aluBic,
      aluMvn, logical, arith, resultFlags, AluOp.flags, AluOp.result, AluOp.carry, AluOp.overflow, addResult_eq,
      addCarry_not, addOverflow_not, add_not_carry, hz] <;>
    simp [addCarry, usum, addOverflow_eq] <;> first | rfl | exact ⟨rfl, rfl⟩

end Sys2Proof.Machine
end

