-- ==== Sys2Proof/Laws/Bits.lean ====
section
/-! SUPPORT. Fields of assembled words, and alignment. -/

namespace Sys2Proof

/-- A field read inside the place where it was put. -/
theorem slice_place_inner {k n lo p len : Nat} (x : BitVec k) (h1 : p ≤ lo) (h2 : lo + len ≤ p + k)
    (h3 : p + k ≤ n) : (place n p x).extractLsb' lo len = x.extractLsb' (lo - p) len := by
  ext i hi
  simp only [place, BitVec.getElem_extractLsb', BitVec.getLsbD_shiftLeft, BitVec.getLsbD_setWidth]
  have h4 : lo + i < n := by omega
  have h5 : ¬ (lo + i < p) := by omega
  have h6 : lo + i - p = lo - p + i := by omega
  simp [h4, h5, h6]; omega

/-- A field read beside the place where another was put. -/
theorem slice_place_off {k n lo p len : Nat} (x : BitVec k) (h : lo + len ≤ p ∨ p + k ≤ lo) :
    (place n p x).extractLsb' lo len = 0#len := by
  ext i hi
  simp only [place, BitVec.getElem_extractLsb', BitVec.getLsbD_shiftLeft, BitVec.getLsbD_setWidth]
  rcases h with h | h
  · have : lo + i < p := by omega
    simp [this]
  · have : x.getLsbD (lo + i - p) = false := BitVec.getLsbD_of_ge _ _ (by omega)
    simp [this]

/-- A field read that starts at or below the place where another was put and takes it in whole. -/
theorem slice_place_up {k n lo p len : Nat} (x : BitVec k) (h1 : lo ≤ p) (h2 : lo + len ≤ n) :
    (place n p x).extractLsb' lo len = place len (p - lo) x := by
  ext i hi
  simp only [place, BitVec.getElem_extractLsb', BitVec.getLsbD_shiftLeft, BitVec.getLsbD_setWidth,
    BitVec.getElem_shiftLeft, BitVec.getElem_setWidth]
  have h4 : lo + i < n := by omega
  by_cases h5 : lo + i < p
  · have h6 : i < p - lo := by omega
    simp [h5, h6]
  · have h6 : ¬ i < p - lo := by omega
    have h7 : lo + i - p = i - (p - lo) := by omega
    have h8 : i - (p - lo) < n := by omega
    simp [h4, h5, h6, h7, h8]

theorem getLsbD_place {k n p i : Nat} (x : BitVec k) :
    (place n p x).getLsbD i = (decide (i < n) && !decide (i < p) && x.getLsbD (i - p)) := by
  simp only [place, BitVec.getLsbD_shiftLeft, BitVec.getLsbD_setWidth]
  by_cases h : i < n <;> by_cases h' : i < p <;> simp [h, h']
  intro; omega

theorem alignWord_toNat (v : Word) : (alignWord v).toNat = v.toNat - v.toNat % 4 := by
  have h : (alignWord v) = (v >>> 2) <<< 2 := by
    apply BitVec.eq_of_getLsbD_eq; intro i hi; interval_cases i <;> simp [alignWord]
  rw [h]
  simp [Nat.shiftLeft_eq, Nat.shiftRight_eq_div_pow]
  omega

theorem alignHalf_toNat (v : Word) : (alignHalf v).toNat = v.toNat - v.toNat % 2 := by
  have h : (alignHalf v) = (v >>> 1) <<< 1 := by
    apply BitVec.eq_of_getLsbD_eq; intro i hi; interval_cases i <;> simp [alignHalf]
  rw [h]
  simp [Nat.shiftLeft_eq, Nat.shiftRight_eq_div_pow]
  omega

end Sys2Proof
end

