-- ==== Sys2Proof/Laws/State.lean ====
section
/-! SUPPORT. One lemma per field for every update of the state, so that no proof unfolds a record update. -/

namespace Sys2Proof.Machine

variable (s : State)

@[simp] theorem State.advance_pc (n : Word) : (s.advance n).pc = s.pc + n := rfl
@[simp] theorem State.advance_regs (n : Word) : (s.advance n).regs = s.regs := rfl
@[simp] theorem State.advance_cpsr (n : Word) : (s.advance n).cpsr = s.cpsr := rfl
@[simp] theorem State.advance_spsrs (n : Word) : (s.advance n).spsrs = s.spsrs := rfl
@[simp] theorem State.advance_mem (n : Word) : (s.advance n).mem = s.mem := rfl
@[simp] theorem State.advance_window (n : Word) : (s.advance n).window = s.window := rfl
@[simp] theorem State.advance_userLdm (n : Word) : (s.advance n).userLdm = s.userLdm := rfl
@[simp] theorem State.advance_inputs (n : Word) : (s.advance n).inputs = s.inputs := rfl
@[simp] theorem State.advance_platform (n : Word) : (s.advance n).platform = s.platform := rfl
@[simp] theorem State.advance_deviceLog (n : Word) : (s.advance n).deviceLog = s.deviceLog := rfl
@[simp] theorem State.advance_coprocLog (n : Word) : (s.advance n).coprocLog = s.coprocLog := rfl
@[simp] theorem State.advance_free (n : Word) : (s.advance n).free = s.free := rfl

@[simp] theorem State.branchTo_pc (t : Word) : (s.branchTo t).pc = t := rfl
@[simp] theorem State.branchTo_regs (t : Word) : (s.branchTo t).regs = s.regs := rfl
@[simp] theorem State.branchTo_cpsr (t : Word) : (s.branchTo t).cpsr = s.cpsr := rfl
@[simp] theorem State.branchTo_spsrs (t : Word) : (s.branchTo t).spsrs = s.spsrs := rfl
@[simp] theorem State.branchTo_mem (t : Word) : (s.branchTo t).mem = s.mem := rfl
@[simp] theorem State.branchTo_window (t : Word) : (s.branchTo t).window = ⟨[], []⟩ := rfl
@[simp] theorem State.branchTo_userLdm (t : Word) : (s.branchTo t).userLdm = s.userLdm := rfl
@[simp] theorem State.branchTo_inputs (t : Word) : (s.branchTo t).inputs = s.inputs := rfl
@[simp] theorem State.branchTo_platform (t : Word) : (s.branchTo t).platform = s.platform := rfl
@[simp] theorem State.branchTo_deviceLog (t : Word) : (s.branchTo t).deviceLog = s.deviceLog := rfl
@[simp] theorem State.branchTo_coprocLog (t : Word) : (s.branchTo t).coprocLog = s.coprocLog := rfl
@[simp] theorem State.branchTo_free (t : Word) : (s.branchTo t).free = s.free := rfl

@[simp] theorem State.setFlags_pc (f : Nzcv) : (s.setFlags f).pc = s.pc := rfl
@[simp] theorem State.setFlags_regs (f : Nzcv) : (s.setFlags f).regs = s.regs := rfl
@[simp] theorem State.setFlags_cpsr (f : Nzcv) : (s.setFlags f).cpsr = { s.cpsr with flags := f } := rfl
@[simp] theorem State.setFlags_spsrs (f : Nzcv) : (s.setFlags f).spsrs = s.spsrs := rfl
@[simp] theorem State.setFlags_mem (f : Nzcv) : (s.setFlags f).mem = s.mem := rfl
@[simp] theorem State.setFlags_window (f : Nzcv) : (s.setFlags f).window = s.window := rfl
@[simp] theorem State.setFlags_userLdm (f : Nzcv) : (s.setFlags f).userLdm = s.userLdm := rfl
@[simp] theorem State.setFlags_inputs (f : Nzcv) : (s.setFlags f).inputs = s.inputs := rfl
@[simp] theorem State.setFlags_platform (f : Nzcv) : (s.setFlags f).platform = s.platform := rfl
@[simp] theorem State.setFlags_deviceLog (f : Nzcv) : (s.setFlags f).deviceLog = s.deviceLog := rfl
@[simp] theorem State.setFlags_coprocLog (f : Nzcv) : (s.setFlags f).coprocLog = s.coprocLog := rfl
@[simp] theorem State.setFlags_free (f : Nzcv) : (s.setFlags f).free = s.free := rfl

@[simp] theorem State.drawn_pc : s.drawn.pc = s.pc := rfl
@[simp] theorem State.drawn_regs : s.drawn.regs = s.regs := rfl
@[simp] theorem State.drawn_cpsr : s.drawn.cpsr = s.cpsr := rfl
@[simp] theorem State.drawn_spsrs : s.drawn.spsrs = s.spsrs := rfl
@[simp] theorem State.drawn_mem : s.drawn.mem = s.mem := rfl
@[simp] theorem State.drawn_window : s.drawn.window = s.window := rfl
@[simp] theorem State.drawn_userLdm : s.drawn.userLdm = s.userLdm := rfl
@[simp] theorem State.drawn_inputs : s.drawn.inputs = s.inputs := rfl
@[simp] theorem State.drawn_platform : s.drawn.platform = s.platform := rfl
@[simp] theorem State.drawn_deviceLog : s.drawn.deviceLog = s.deviceLog := rfl
@[simp] theorem State.drawn_coprocLog : s.drawn.coprocLog = s.coprocLog := rfl
@[simp] theorem State.drawn_free : s.drawn.free = s.free + 1 := rfl

@[simp] theorem State.markUserLdm_pc : s.markUserLdm.pc = s.pc := rfl
@[simp] theorem State.markUserLdm_regs : s.markUserLdm.regs = s.regs := rfl
@[simp] theorem State.markUserLdm_cpsr : s.markUserLdm.cpsr = s.cpsr := rfl
@[simp] theorem State.markUserLdm_spsrs : s.markUserLdm.spsrs = s.spsrs := rfl
@[simp] theorem State.markUserLdm_mem : s.markUserLdm.mem = s.mem := rfl
@[simp] theorem State.markUserLdm_window : s.markUserLdm.window = s.window := rfl
@[simp] theorem State.markUserLdm_inputs : s.markUserLdm.inputs = s.inputs := rfl
@[simp] theorem State.markUserLdm_platform : s.markUserLdm.platform = s.platform := rfl
@[simp] theorem State.markUserLdm_deviceLog : s.markUserLdm.deviceLog = s.deviceLog := rfl
@[simp] theorem State.markUserLdm_coprocLog : s.markUserLdm.coprocLog = s.coprocLog := rfl
@[simp] theorem State.markUserLdm_free : s.markUserLdm.free = s.free := rfl
@[simp] theorem State.markUserLdm_userLdm : s.markUserLdm.userLdm = true := rfl
@[simp] theorem State.markUserLdm_reg (i : Reg) (a : Word) : s.markUserLdm.reg i a = s.reg i a := rfl

@[simp] theorem State.tell_pc (e : CoprocEvent) : (s.tell e).pc = s.pc := rfl
@[simp] theorem State.tell_regs (e : CoprocEvent) : (s.tell e).regs = s.regs := rfl
@[simp] theorem State.tell_cpsr (e : CoprocEvent) : (s.tell e).cpsr = s.cpsr := rfl
@[simp] theorem State.tell_spsrs (e : CoprocEvent) : (s.tell e).spsrs = s.spsrs := rfl
@[simp] theorem State.tell_mem (e : CoprocEvent) : (s.tell e).mem = s.mem := rfl
@[simp] theorem State.tell_window (e : CoprocEvent) : (s.tell e).window = s.window := rfl
@[simp] theorem State.tell_userLdm (e : CoprocEvent) : (s.tell e).userLdm = s.userLdm := rfl
@[simp] theorem State.tell_inputs (e : CoprocEvent) : (s.tell e).inputs = s.inputs := rfl
@[simp] theorem State.tell_platform (e : CoprocEvent) : (s.tell e).platform = s.platform := rfl
@[simp] theorem State.tell_deviceLog (e : CoprocEvent) : (s.tell e).deviceLog = s.deviceLog := rfl
@[simp] theorem State.tell_coprocLog (e : CoprocEvent) : (s.tell e).coprocLog = e :: s.coprocLog := rfl
@[simp] theorem State.tell_free (e : CoprocEvent) : (s.tell e).free = s.free := rfl

@[simp] theorem State.exchange_pc (v : Word) : (s.exchange v).pc = alignPc (v.getLsbD 0) v := rfl
@[simp] theorem State.exchange_regs (v : Word) : (s.exchange v).regs = s.regs := rfl
@[simp] theorem State.exchange_cpsr (v : Word) : (s.exchange v).cpsr = { s.cpsr with t := v.getLsbD 0 } := rfl
@[simp] theorem State.exchange_spsrs (v : Word) : (s.exchange v).spsrs = s.spsrs := rfl
@[simp] theorem State.exchange_mem (v : Word) : (s.exchange v).mem = s.mem := rfl
@[simp] theorem State.exchange_platform (v : Word) : (s.exchange v).platform = s.platform := rfl

@[simp] theorem State.enter_pc (e : Exception) : (s.enter e).pc = Config.vectorBase + e.offset := rfl
@[simp] theorem State.enter_regs (e : Exception) :
    (s.enter e).regs = s.regs.set (linkReg e.mode) (s.returnAddress e) := rfl
@[simp] theorem State.enter_cpsr (e : Exception) :
    (s.enter e).cpsr = { s.cpsr with i := true, f := s.cpsr.f || e.setsF, t := false, mode := e.mode } := rfl
@[simp] theorem State.enter_spsrs (e : Exception) : (s.enter e).spsrs = s.spsrs.set e.mode s.cpsr.saved := rfl
@[simp] theorem State.enter_mem (e : Exception) : (s.enter e).mem = s.mem := rfl
@[simp] theorem State.enter_window (e : Exception) : (s.enter e).window = ⟨[], []⟩ := rfl
@[simp] theorem State.enter_userLdm (e : Exception) : (s.enter e).userLdm = s.userLdm := rfl
@[simp] theorem State.enter_inputs (e : Exception) : (s.enter e).inputs = s.inputs := rfl
@[simp] theorem State.enter_platform (e : Exception) : (s.enter e).platform = s.platform := rfl
@[simp] theorem State.enter_deviceLog (e : Exception) : (s.enter e).deviceLog = s.deviceLog := rfl
@[simp] theorem State.enter_coprocLog (e : Exception) : (s.enter e).coprocLog = s.coprocLog := rfl
@[simp] theorem State.enter_free (e : Exception) : (s.enter e).free = s.free := rfl

@[simp] theorem State.forget_pc : s.forget.pc = s.pc := rfl
@[simp] theorem State.forget_mem : s.forget.mem = s.mem := rfl
@[simp] theorem State.forget_mode : s.forget.cpsr.mode = s.cpsr.mode := rfl
@[simp] theorem State.forget_t : s.forget.cpsr.t = s.cpsr.t := rfl
@[simp] theorem State.forget_i : s.forget.cpsr.i = s.cpsr.i := rfl
@[simp] theorem State.forget_f : s.forget.cpsr.f = s.cpsr.f := rfl
@[simp] theorem State.forget_platform : s.forget.platform = s.platform := rfl

@[simp] theorem State.executing_pc : s.executing.pc = s.pc := rfl
@[simp] theorem State.executing_regs : s.executing.regs = s.regs := rfl
@[simp] theorem State.executing_cpsr : s.executing.cpsr = s.cpsr := rfl
@[simp] theorem State.executing_spsrs : s.executing.spsrs = s.spsrs := rfl
@[simp] theorem State.executing_mem : s.executing.mem = s.mem := rfl
@[simp] theorem State.executing_platform : s.executing.platform = s.platform := rfl
@[simp] theorem State.executing_userLdm : s.executing.userLdm = false := rfl

@[simp] theorem State.sampled_pc : s.sampled.pc = s.pc := rfl
@[simp] theorem State.sampled_regs : s.sampled.regs = s.regs := rfl
@[simp] theorem State.sampled_cpsr : s.sampled.cpsr = s.cpsr := rfl
@[simp] theorem State.sampled_spsrs : s.sampled.spsrs = s.spsrs := rfl
@[simp] theorem State.sampled_mem : s.sampled.mem = s.mem := rfl
@[simp] theorem State.sampled_window : s.sampled.window = s.window := rfl
@[simp] theorem State.sampled_platform : s.sampled.platform = s.platform := rfl

end Sys2Proof.Machine
end

