-- ==== Sys2Proof/Laws/Memory.lean ====
section
/-! SUPPORT. Memory: reads after writes, and every operation keeps the canonical form. -/

namespace Sys2Proof.Machine

/-- A byte write leaves every other address alone, whatever the form of the memory. -/
theorem Memory.get_set_other (m : Memory) (a b : Nat) (v : Byte) (h : b ≠ a) :
    (m.set a v).get b = m.get b := by
  induction m with
  | nil => unfold Memory.set; split <;> simp [Memory.get, h]
  | cons c rest ih =>
    obtain ⟨d, w⟩ := c
    unfold Memory.set
    split
    · split
      · rfl
      · simp [Memory.get, h]
    · split
      · rename_i h1 h2
        subst h2
        split <;> simp [Memory.get, h]
      · simp only [Memory.get, ih]

theorem Memory.wfFrom_mono {lo lo' : Nat} {m : Memory} (h : lo' ≤ lo) (hm : Memory.wfFrom lo m = true) :
    Memory.wfFrom lo' m = true := by
  cases m with
  | nil => rfl
  | cons c rest =>
    obtain ⟨d, w⟩ := c
    simp only [Memory.wfFrom, Bool.and_eq_true, decide_eq_true_eq] at hm ⊢
    exact ⟨⟨⟨by omega, hm.1.1.2⟩, hm.1.2⟩, hm.2⟩

/-- An address below every listed one reads as an unlisted one. -/
theorem Memory.get_below {lo a : Nat} {m : Memory} (hm : Memory.wfFrom lo m = true) (h : a < lo) :
    m.get a = Memory.unlisted := by
  induction m generalizing lo with
  | nil => rfl
  | cons c rest ih =>
    obtain ⟨d, w⟩ := c
    simp only [Memory.wfFrom, Bool.and_eq_true, decide_eq_true_eq] at hm
    have : a ≠ d := by omega
    simp only [Memory.get, this, if_false]
    exact ih hm.2 (by omega)

/-- In the canonical form a byte write is read back. -/
theorem Memory.get_set_from {lo : Nat} {m : Memory} (hm : Memory.wfFrom lo m = true) (a : Nat) (v : Byte) :
    (m.set a v).get a = v := by
  induction m generalizing lo with
  | nil => unfold Memory.set; split <;> simp_all [Memory.get]
  | cons c rest ih =>
    obtain ⟨d, w⟩ := c
    simp only [Memory.wfFrom, Bool.and_eq_true, decide_eq_true_eq] at hm
    unfold Memory.set
    split
    · split
      · rename_i h1 h2
        have : a ≠ d := by omega
        simp only [Memory.get, this, if_false, h2]
        exact Memory.get_below hm.2 (by omega)
      · simp [Memory.get]
    · split
      · rename_i h1 h2
        subst h2
        split
        · rename_i h3
          rw [h3]; exact Memory.get_below hm.2 (by omega)
        · simp [Memory.get]
      · rename_i h1 h2
        simp only [Memory.get, h2, if_false]
        exact ih hm.2

/-- A byte write keeps the canonical form. -/
theorem Memory.wfFrom_set {lo : Nat} {m : Memory} (hm : Memory.wfFrom lo m = true) {a : Nat} (ha : lo ≤ a)
    (hb : a < 2 ^ 32) (v : Byte) : Memory.wfFrom lo (m.set a v) = true := by
  induction m generalizing lo with
  | nil => unfold Memory.set; split <;> simp_all [Memory.wfFrom]
  | cons c rest ih =>
    obtain ⟨d, w⟩ := c
    have hm' := hm
    simp only [Memory.wfFrom, Bool.and_eq_true, decide_eq_true_eq] at hm
    unfold Memory.set
    split
    · split
      · exact hm'
      · rename_i h1 h2
        simp only [Memory.wfFrom, Bool.and_eq_true, decide_eq_true_eq, bne_iff_ne, ne_eq]
        exact ⟨⟨⟨ha, hb⟩, h2⟩, ⟨⟨⟨by omega, hm.1.1.2⟩, by simpa using hm.1.2⟩, hm.2⟩⟩
    · split
      · rename_i h1 h2
        subst h2
        split
        · exact Memory.wfFrom_mono (by omega) hm.2
        · rename_i h3
          simp only [Memory.wfFrom, Bool.and_eq_true, decide_eq_true_eq, bne_iff_ne, ne_eq]
          exact ⟨⟨⟨ha, hb⟩, h3⟩, hm.2⟩
      · rename_i h1 h2
        simp only [Memory.wfFrom, Bool.and_eq_true, decide_eq_true_eq]
        exact ⟨hm.1, ih hm.2 (by omega)⟩

theorem Memory.wf_set {m : Memory} (hm : m.wf = true) {a : Nat} (hb : a < 2 ^ 32) (v : Byte) :
    (m.set a v).wf = true := Memory.wfFrom_set hm (Nat.zero_le a) hb v

theorem Memory.get_set_same {m : Memory} (hm : m.wf = true) (a : Nat) (v : Byte) : (m.set a v).get a = v :=
  Memory.get_set_from hm a v

theorem Memory.get_set {m : Memory} (hm : m.wf = true) (a b : Nat) (v : Byte) :
    (m.set a v).get b = if b = a then v else m.get b := by
  split
  · rename_i h; subst h; exact Memory.get_set_same hm b v
  · rename_i h; exact Memory.get_set_other m a b v h

/-- An access does not run past the end of the address space: true of every aligned one. -/
theorem alignWord_room (v : Word) : (alignWord v).toNat + 3 < 2 ^ 32 := by
  have h : (alignWord v).toNat = v.toNat &&& 0xFFFFFFFC := by simp [alignWord]
  have h1 : v.toNat &&& 0xFFFFFFFC ≤ 0xFFFFFFFC := Nat.and_le_right
  omega

theorem alignHalf_room (v : Word) : (alignHalf v).toNat + 1 < 2 ^ 32 := by
  have h : (alignHalf v).toNat = v.toNat &&& 0xFFFFFFFE := by simp [alignHalf]
  have h1 : v.toNat &&& 0xFFFFFFFE ≤ 0xFFFFFFFE := Nat.and_le_right
  omega

/-- An aligned write leaves the bytes outside it alone. -/
theorem Memory.get_write_other (m : Memory) (addr : Word) (w : Width) (v : Word) (b : Nat)
    (h : b < addr.toNat ∨ addr.toNat + widthBytes w ≤ b) : (m.write addr w v).get b = m.get b := by
  cases w <;> simp only [Memory.write, widthBytes] at h ⊢
  · exact Memory.get_set_other _ _ _ _ (by omega)
  · rw [Memory.get_set_other _ _ _ _ (by omega), Memory.get_set_other _ _ _ _ (by omega)]
  · rw [Memory.get_set_other _ _ _ _ (by omega), Memory.get_set_other _ _ _ _ (by omega),
      Memory.get_set_other _ _ _ _ (by omega), Memory.get_set_other _ _ _ _ (by omega)]

/-- An aligned write with room at the end keeps the canonical form. -/
theorem Memory.wf_write {m : Memory} (hm : m.wf = true) {addr : Word} {w : Width} (v : Word)
    (h : addr.toNat + widthBytes w ≤ 2 ^ 32) : (m.write addr w v).wf = true := by
  cases w <;> simp only [Memory.write, widthBytes] at h ⊢
  · exact Memory.wf_set hm (by omega) _
  · exact Memory.wf_set (Memory.wf_set hm (by omega) _) (by omega) _
  · exact Memory.wf_set (Memory.wf_set (Memory.wf_set (Memory.wf_set hm (by omega) _) (by omega) _) (by omega) _)
      (by omega) _

/-- The bytes of an aligned write are read back one by one (R61). -/
theorem Memory.get_write_inside {m : Memory} (hm : m.wf = true) {addr : Word} {w : Width} (v : Word)
    (h : addr.toNat + widthBytes w ≤ 2 ^ 32) {k : Nat} (hk : k < widthBytes w) :
    (m.write addr w v).get (addr.toNat + k) = byteOf v k := by
  have w1 : ∀ a, a < 2 ^ 32 → ∀ x (m : Memory), m.wf = true → (m.set a x).wf = true :=
    fun a ha x m hm => Memory.wf_set hm ha x
  cases w <;> simp only [Memory.write, widthBytes] at h hk ⊢
  · obtain rfl : k = 0 := by omega
    exact Memory.get_set_same hm _ _
  · have h1 := w1 _ (show addr.toNat < 2 ^ 32 by omega) (byteOf v 0) m hm
    rw [Memory.get_set h1, Memory.get_set hm]
    have : k = 0 ∨ k = 1 := by omega
    rcases this with rfl | rfl <;> simp
  · have h1 := w1 _ (show addr.toNat < 2 ^ 32 by omega) (byteOf v 0) m hm
    have h2 := w1 _ (show addr.toNat + 1 < 2 ^ 32 by omega) (byteOf v 1) _ h1
    have h3 := w1 _ (show addr.toNat + 2 < 2 ^ 32 by omega) (byteOf v 2) _ h2
    rw [Memory.get_set h3, Memory.get_set h2, Memory.get_set h1, Memory.get_set hm]
    have : k = 0 ∨ k = 1 ∨ k = 2 ∨ k = 3 := by omega
    rcases this with rfl | rfl | rfl | rfl <;> simp

end Sys2Proof.Machine
end

