-- ==== Sys2Proof/Laws/Registers.lean ====
section
/-! SUPPORT. Reads after writes of registers and SPSRs, and what a register write leaves alone. -/

namespace Sys2Proof.Machine

theorem Regs.get_set (r : Regs) (g g' : GReg) (v : Word) :
    (r.set g v).get g' = if g' = g then v else r.get g' := by
  cases g <;> cases g' <;> rfl

@[simp] theorem Regs.get_set_same (r : Regs) (g : GReg) (v : Word) : (r.set g v).get g = v := by
  rw [Regs.get_set]; simp

/-- Two register numbers of one mode name one register only when they are equal (R22). -/
theorem physical_injective {m : Mode} {i j : Reg} (h : physical m i = physical m j) (hi : i ≠ 15#4) : i = j := by
  cases m <;> revert i j <;> decide

theorem physical_r15 (m : Mode) : physical m 15#4 = none := by cases m <;> rfl

theorem physical_isSome {m : Mode} {i : Reg} (hi : i ≠ 15#4) : (physical m i).isSome = true := by
  cases m <;> revert i <;> decide

theorem physical_some {m : Mode} {i : Reg} (hi : i ≠ 15#4) : ∃ g, physical m i = some g :=
  Option.isSome_iff_exists.mp (physical_isSome hi)

theorem physical_stack (m : Mode) : physical m 13#4 = some (stackReg m) := rfl
theorem physical_link (m : Mode) : physical m 14#4 = some (linkReg m) := rfl

variable (s : State) (m : Mode) (i : Reg) (v : Word)

@[simp] theorem State.setRegIn_pc : (s.setRegIn m i v).pc = s.pc := by unfold State.setRegIn; split <;> rfl
@[simp] theorem State.setRegIn_cpsr : (s.setRegIn m i v).cpsr = s.cpsr := by unfold State.setRegIn; split <;> rfl
@[simp] theorem State.setRegIn_spsrs : (s.setRegIn m i v).spsrs = s.spsrs := by unfold State.setRegIn; split <;> rfl
@[simp] theorem State.setRegIn_mem : (s.setRegIn m i v).mem = s.mem := by unfold State.setRegIn; split <;> rfl
@[simp] theorem State.setRegIn_window : (s.setRegIn m i v).window = s.window := by
  unfold State.setRegIn; split <;> rfl
@[simp] theorem State.setRegIn_userLdm : (s.setRegIn m i v).userLdm = s.userLdm := by
  unfold State.setRegIn; split <;> rfl
@[simp] theorem State.setRegIn_inputs : (s.setRegIn m i v).inputs = s.inputs := by
  unfold State.setRegIn; split <;> rfl
@[simp] theorem State.setRegIn_platform : (s.setRegIn m i v).platform = s.platform := by
  unfold State.setRegIn; split <;> rfl
@[simp] theorem State.setRegIn_deviceLog : (s.setRegIn m i v).deviceLog = s.deviceLog := by
  unfold State.setRegIn; split <;> rfl
@[simp] theorem State.setRegIn_coprocLog : (s.setRegIn m i v).coprocLog = s.coprocLog := by
  unfold State.setRegIn; split <;> rfl
@[simp] theorem State.setRegIn_free : (s.setRegIn m i v).free = s.free := by unfold State.setRegIn; split <;> rfl

/-- What a register write does to every physical register. -/
theorem State.setRegIn_get (g : GReg) :
    (s.setRegIn m i v).regs.get g = if physical m i = some g then v else s.regs.get g := by
  unfold State.setRegIn
  split
  · rename_i g' h
    simp only [Regs.get_set, h, Option.some.injEq, eq_comm]
  · rename_i h
    simp [h]

@[simp] theorem State.setReg_pc : (s.setReg i v).pc = s.pc := by simp [State.setReg]
@[simp] theorem State.setReg_cpsr : (s.setReg i v).cpsr = s.cpsr := by simp [State.setReg]
@[simp] theorem State.setReg_spsrs : (s.setReg i v).spsrs = s.spsrs := by simp [State.setReg]
@[simp] theorem State.setReg_mem : (s.setReg i v).mem = s.mem := by simp [State.setReg]
@[simp] theorem State.setReg_window : (s.setReg i v).window = s.window := by simp [State.setReg]
@[simp] theorem State.setReg_userLdm : (s.setReg i v).userLdm = s.userLdm := by simp [State.setReg]
@[simp] theorem State.setReg_inputs : (s.setReg i v).inputs = s.inputs := by simp [State.setReg]
@[simp] theorem State.setReg_platform : (s.setReg i v).platform = s.platform := by simp [State.setReg]
@[simp] theorem State.setReg_deviceLog : (s.setReg i v).deviceLog = s.deviceLog := by simp [State.setReg]
@[simp] theorem State.setReg_coprocLog : (s.setReg i v).coprocLog = s.coprocLog := by simp [State.setReg]
@[simp] theorem State.setReg_free : (s.setReg i v).free = s.free := by simp [State.setReg]

theorem State.setReg_get (g : GReg) :
    (s.setReg i v).regs.get g = if physical s.cpsr.mode i = some g then v else s.regs.get g :=
  State.setRegIn_get s s.cpsr.mode i v g

/-- A register read of a register that is not R15. -/
theorem State.reg_eq {s : State} {i : Reg} {g : GReg} (h : physical s.cpsr.mode i = some g) (a : Word) :
    s.reg i a = s.regs.get g := by
  simp [State.reg, State.regIn, h]

/-- R15 reads pc + `ahead` (R28). -/
@[simp] theorem State.reg_r15 (a : Word) : s.reg 15#4 a = s.pc + a := by
  simp [State.reg, State.regIn, physical_r15]

/-- A read after a write in one mode. -/
theorem State.reg_setReg (j : Reg) (a : Word) (hi : i ≠ 15#4) :
    (s.setReg i v).reg j a = if j = i then v else s.reg j a := by
  unfold State.reg State.regIn
  simp only [State.setReg_cpsr, State.setReg_pc]
  split
  · rename_i g h
    rw [State.setReg_get]
    by_cases hij : j = i
    · subst hij; simp [h]
    · have : physical s.cpsr.mode i ≠ some g := fun h' => hij (physical_injective (h'.trans h.symm) hi).symm
      simp [this, hij]
  · rename_i h
    have hj : j ≠ i := by
      rintro rfl
      obtain ⟨g, hg⟩ := physical_some (m := s.cpsr.mode) hi
      simp [hg] at h
    simp [hj]

theorem Spsrs.get?_set (p : Spsrs) (m m' : Mode) (q : Psr) :
    (p.set m q).get? m' = if m' = m ∧ m ≠ .usr ∧ m ≠ .sys then some q else p.get? m' := by
  cases m <;> cases m' <;> rfl

@[simp] theorem Mode.ofBits_bits (m : Mode) : Mode.ofBits m.bits = some m := by cases m <;> rfl

theorem Mode.bits_of_ofBits {b : BitVec 5} {m : Mode} (h : Mode.ofBits b = some m) : m.bits = b := by
  revert h; cases m <;> revert b <;> decide

end Sys2Proof.Machine
end

