-- ==== Sys2Proof/Laws/Ops.lean ====
section
/-! SUPPORT. For each shared operation, once, what it can do: `Ends r P` says that a result, if it is a next state, is
one with P; `Quiet s t` says that nothing but registers the current mode sees, RAM, devices, coprocessors and the model's
own counters has changed. -/

namespace Sys2Proof.Machine

/-! ## Results -/

/-- If the result is a next state, it has `P`. -/
def Ends (r : Result) (P : State → Prop) : Prop := ∀ t : State, r = .next t → P t

theorem Ends.next {t : State} {P : State → Prop} (h : P t) : Ends (.next t) P := by
  rintro u hu; cases hu; exact h

theorem Ends.refused {r : Refusal} {P : State → Prop} : Ends (.refused r) P := by
  rintro u hu; cases hu

theorem Ends.mono {r : Result} {P Q : State → Prop} (h : Ends r P) (hPQ : ∀ t, P t → Q t) : Ends r Q :=
  fun t ht => hPQ t (h t ht)

theorem Ends.refuseIf {b : Bool} {e : Refusal} {k : Result} {P : State → Prop} (h : Ends k P) :
    Ends (refuseIf b e k) P := by
  unfold Machine.refuseIf; split
  · exact Ends.refused
  · exact h

/-- An ARM instruction either advances by 4 or acts with its condition passed (R47). -/
theorem Ends.conditional {c : Cond} {s : State} {act : State → Result} {P : State → Prop}
    (hskip : P (s.advance 4)) (hact : Ends (act s) P) : Ends (conditional c s act) P := by
  unfold Machine.conditional; split
  · exact hact
  · exact Ends.next hskip

theorem Ends.checkWriteBack {wb : Bool} {rn rd : Reg} {k : Result} {P : State → Prop} (h : Ends k P) :
    Ends (checkWriteBack wb rn rd k) P := Ends.refuseIf (Ends.refuseIf h)

theorem Ends.checkBlock {rn : Reg} {list : BitVec 16} {k : Result} {P : State → Prop} (h : Ends k P) :
    Ends (checkBlock rn list k) P := Ends.refuseIf (Ends.refuseIf h)

theorem conditional_pass {c : Cond} {s : State} {act : State → Result} (h : condPassed c s.cpsr.flags = true) :
    conditional c s act = act s := by simp [conditional, h]

theorem conditional_fail {c : Cond} {s : State} {act : State → Result} (h : condPassed c s.cpsr.flags = false) :
    conditional c s act = .next (s.advance 4) := by simp [conditional, h]

@[simp] theorem refuseIf_false (e : Refusal) (k : Result) : refuseIf false e k = k := rfl
@[simp] theorem refuseIf_true (e : Refusal) (k : Result) : refuseIf true e k = .refused e := rfl

theorem refuseIf_ne {n : Nat} {a b : BitVec n} (h : a ≠ b) (e : Refusal) (k : Result) :
    refuseIf (a == b) e k = k := by simp [refuseIf, h]

/-! ## Quiet changes -/

theorem NotesStores.of_same {s t : State} (hw : t.window = s.window) (hm : t.mem = s.mem) : NotesStores s t :=
  ⟨by rw [hw], [], by rw [hw]; rfl, fun a h => absurd (by rw [hm]) h⟩

theorem NotesStores.trans {s t u : State} (h : NotesStores s t) (h' : NotesStores t u) : NotesStores s u := by
  obtain ⟨hp, l, hl, hc⟩ := h
  obtain ⟨hp', l', hl', hc'⟩ := h'
  refine ⟨hp'.trans hp, l' ++ l, by rw [hl', hl, List.append_assoc], fun a ha => ?_⟩
  by_cases hu : u.mem.get a = t.mem.get a
  · obtain ⟨w, hw, hb⟩ := hc a (by rwa [hu] at ha)
    exact ⟨w, List.mem_append_right l' hw, hb⟩
  · obtain ⟨w, hw, hb⟩ := hc' a hu
    exact ⟨w, List.mem_append_left l hw, hb⟩

/-- From `s` to `t` nothing has changed but registers that the current mode sees (in User mode none of an exception
mode), RAM in canonical form with its stores noted in the stale-fetch window, device and coprocessor histories, the
user-LDM mark and the free-value counter. -/
structure Quiet (s t : State) : Prop where
  pc : t.pc = s.pc
  cpsr : t.cpsr = s.cpsr
  spsrs : t.spsrs = s.spsrs
  platform : t.platform = s.platform
  inputs : t.inputs = s.inputs
  wf : s.mem.wf = true → t.mem.wf = true
  banked : s.cpsr.mode = .usr → ∀ g : GReg, exceptionBanked g = true → t.regs.get g = s.regs.get g
  noted : NotesStores s t

theorem Quiet.refl (s : State) : Quiet s s := ⟨rfl, rfl, rfl, rfl, rfl, id, fun _ _ _ => rfl, .of_same rfl rfl⟩

theorem Quiet.trans {s t u : State} (h : Quiet s t) (h' : Quiet t u) : Quiet s u where
  pc := h'.pc.trans h.pc
  cpsr := h'.cpsr.trans h.cpsr
  spsrs := h'.spsrs.trans h.spsrs
  platform := h'.platform.trans h.platform
  inputs := h'.inputs.trans h.inputs
  wf := fun hw => h'.wf (h.wf hw)
  banked := fun hm g hg => (h'.banked (by rw [h.cpsr]; exact hm) g hg).trans (h.banked hm g hg)
  noted := h.noted.trans h'.noted

theorem Quiet.reg {s t : State} (h : Quiet s t) (hr : t.regs = s.regs) (i : Reg) (a : Word) :
    t.reg i a = s.reg i a := by simp [State.reg, State.regIn, h.cpsr, h.pc, hr]

/-- In User mode no register number names a register of an exception mode (R21, R22). -/
theorem physical_usr_not_banked {i : Reg} {g : GReg} (h : physical .usr i = some g) : exceptionBanked g = false := by
  revert h; cases g <;> revert i <;> decide

/-- A write to a register of the current mode, or of User mode from any mode. -/
theorem Quiet.setRegIn (s : State) {m : Mode} (hm : m = s.cpsr.mode ∨ m = .usr) (i : Reg) (v : Word) :
    Quiet s (s.setRegIn m i v) where
  pc := by simp
  cpsr := by simp
  spsrs := by simp
  platform := by simp
  inputs := by simp
  wf := by simp
  banked := by
    intro hu g hg
    rw [State.setRegIn_get]
    split
    · rename_i hp
      have hmu : m = .usr := by rcases hm with rfl | rfl <;> simp_all
      subst hmu
      rw [physical_usr_not_banked hp] at hg
      exact absurd hg (by simp)
    · rfl
  noted := .of_same (by simp) (by simp)

theorem Quiet.setReg (s : State) (i : Reg) (v : Word) : Quiet s (s.setReg i v) :=
  Quiet.setRegIn s (Or.inl rfl) i v

theorem Quiet.drawn (s : State) : Quiet s s.drawn := ⟨rfl, rfl, rfl, rfl, rfl, id, fun _ _ _ => rfl, .of_same rfl rfl⟩

theorem Quiet.markUserLdm (s : State) : Quiet s s.markUserLdm :=
  ⟨rfl, rfl, rfl, rfl, rfl, id, fun _ _ _ => rfl, .of_same rfl rfl⟩

theorem Quiet.tell (s : State) (e : CoprocEvent) : Quiet s (s.tell e) :=
  ⟨rfl, rfl, rfl, rfl, rfl, id, fun _ _ _ => rfl, .of_same rfl rfl⟩

theorem Quiet.writeBack (s : State) (rn : Reg) (a : Addressing) : Quiet s (s.writeBack rn a) := by
  unfold State.writeBack; split
  · exact Quiet.setReg s rn _
  · exact Quiet.refl s

theorem Quiet.blockBase (s : State) (b : Block) : Quiet s (s.blockBase b) := by
  unfold State.blockBase; split
  · exact Quiet.setReg s b.base b.newBase
  · exact Quiet.refl s

@[simp] theorem State.writeBack_mem (s : State) (rn : Reg) (a : Addressing) : (s.writeBack rn a).mem = s.mem := by
  unfold State.writeBack; split <;> simp
@[simp] theorem State.writeBack_pc (s : State) (rn : Reg) (a : Addressing) : (s.writeBack rn a).pc = s.pc :=
  (Quiet.writeBack s rn a).pc
@[simp] theorem State.writeBack_cpsr (s : State) (rn : Reg) (a : Addressing) : (s.writeBack rn a).cpsr = s.cpsr :=
  (Quiet.writeBack s rn a).cpsr
@[simp] theorem State.writeBack_spsrs (s : State) (rn : Reg) (a : Addressing) : (s.writeBack rn a).spsrs = s.spsrs :=
  (Quiet.writeBack s rn a).spsrs
@[simp] theorem State.writeBack_platform (s : State) (rn : Reg) (a : Addressing) :
    (s.writeBack rn a).platform = s.platform := (Quiet.writeBack s rn a).platform
@[simp] theorem State.writeBack_inputs (s : State) (rn : Reg) (a : Addressing) :
    (s.writeBack rn a).inputs = s.inputs := (Quiet.writeBack s rn a).inputs
@[simp] theorem State.writeBack_deviceLog (s : State) (rn : Reg) (a : Addressing) :
    (s.writeBack rn a).deviceLog = s.deviceLog := by unfold State.writeBack; split <;> simp
@[simp] theorem State.writeBack_coprocLog (s : State) (rn : Reg) (a : Addressing) :
    (s.writeBack rn a).coprocLog = s.coprocLog := by unfold State.writeBack; split <;> simp
@[simp] theorem State.writeBack_userLdm (s : State) (rn : Reg) (a : Addressing) :
    (s.writeBack rn a).userLdm = s.userLdm := by unfold State.writeBack; split <;> simp

@[simp] theorem State.blockBase_mem (s : State) (b : Block) : (s.blockBase b).mem = s.mem := by
  unfold State.blockBase; split <;> simp
@[simp] theorem State.blockBase_pc (s : State) (b : Block) : (s.blockBase b).pc = s.pc := (Quiet.blockBase s b).pc
@[simp] theorem State.blockBase_cpsr (s : State) (b : Block) : (s.blockBase b).cpsr = s.cpsr :=
  (Quiet.blockBase s b).cpsr
@[simp] theorem State.blockBase_deviceLog (s : State) (b : Block) : (s.blockBase b).deviceLog = s.deviceLog := by
  unfold State.blockBase; split <;> simp
@[simp] theorem State.blockBase_coprocLog (s : State) (b : Block) : (s.blockBase b).coprocLog = s.coprocLog := by
  unfold State.blockBase; split <;> simp
@[simp] theorem State.blockBase_userLdm (s : State) (b : Block) : (s.blockBase b).userLdm = s.userLdm := by
  unfold State.blockBase; split <;> simp

/-- The base after a write-back, register by register. -/
theorem State.writeBack_get (s : State) (rn : Reg) (a : Addressing) (g : GReg) :
    (s.writeBack rn a).regs.get g =
      match a.writeBack with
      | some idx => if physical s.cpsr.mode rn = some g then idx else s.regs.get g
      | none => s.regs.get g := by
  unfold State.writeBack; split <;> simp_all [State.setReg_get]

theorem State.blockBase_get (s : State) (b : Block) (g : GReg) :
    (s.blockBase b).regs.get g =
      if b.writeBack = true ∧ physical s.cpsr.mode b.base = some g then b.newBase else s.regs.get g := by
  unfold State.blockBase; split <;> simp_all [State.setReg_get]

/-! ## Memory accesses -/

/-- A read that does not abort changes at most the device history. -/
theorem State.take_quiet (s : State) (addr : Word) (w : Width) : Quiet s (s.take addr w).2 := by
  unfold State.take; split
  · exact ⟨rfl, rfl, rfl, rfl, rfl, id, fun _ _ _ => rfl, .of_same rfl rfl⟩
  · exact Quiet.refl s

@[simp] theorem State.take_mem (s : State) (addr : Word) (w : Width) : (s.take addr w).2.mem = s.mem := by
  unfold State.take; split <;> rfl
@[simp] theorem State.take_regs (s : State) (addr : Word) (w : Width) : (s.take addr w).2.regs = s.regs := by
  unfold State.take; split <;> rfl
@[simp] theorem State.take_window (s : State) (addr : Word) (w : Width) : (s.take addr w).2.window = s.window := by
  unfold State.take; split <;> rfl
@[simp] theorem State.take_userLdm (s : State) (addr : Word) (w : Width) :
    (s.take addr w).2.userLdm = s.userLdm := by unfold State.take; split <;> rfl
@[simp] theorem State.take_coprocLog (s : State) (addr : Word) (w : Width) :
    (s.take addr w).2.coprocLog = s.coprocLog := by unfold State.take; split <;> rfl

/-- A read of RAM. -/
theorem State.take_ram {s : State} {addr : Word} {w : Width} (h : s.isDevice addr = false) :
    s.take addr w = (s.mem.read addr w, s) := by simp [State.take, h]

@[simp] theorem State.put_regs (s : State) (addr : Word) (w : Width) (v : Word) : (s.put addr w v).regs = s.regs := by
  unfold State.put; split <;> rfl
@[simp] theorem State.put_pc (s : State) (addr : Word) (w : Width) (v : Word) : (s.put addr w v).pc = s.pc := by
  unfold State.put; split <;> rfl
@[simp] theorem State.put_cpsr (s : State) (addr : Word) (w : Width) (v : Word) : (s.put addr w v).cpsr = s.cpsr := by
  unfold State.put; split <;> rfl
@[simp] theorem State.put_spsrs (s : State) (addr : Word) (w : Width) (v : Word) :
    (s.put addr w v).spsrs = s.spsrs := by unfold State.put; split <;> rfl
@[simp] theorem State.put_platform (s : State) (addr : Word) (w : Width) (v : Word) :
    (s.put addr w v).platform = s.platform := by unfold State.put; split <;> rfl
@[simp] theorem State.put_inputs (s : State) (addr : Word) (w : Width) (v : Word) :
    (s.put addr w v).inputs = s.inputs := by unfold State.put; split <;> rfl
@[simp] theorem State.put_userLdm (s : State) (addr : Word) (w : Width) (v : Word) :
    (s.put addr w v).userLdm = s.userLdm := by unfold State.put; split <;> rfl
@[simp] theorem State.put_coprocLog (s : State) (addr : Word) (w : Width) (v : Word) :
    (s.put addr w v).coprocLog = s.coprocLog := by unfold State.put; split <;> rfl
@[simp] theorem State.put_free (s : State) (addr : Word) (w : Width) (v : Word) : (s.put addr w v).free = s.free := by
  unfold State.put; split <;> rfl

theorem State.put_wf {s : State} {addr : Word} {w : Width} (hroom : addr.toNat + widthBytes w ≤ 2 ^ 32) (v : Word)
    (h : s.mem.wf = true) : (s.put addr w v).mem.wf = true := by
  unfold State.put; split
  · exact h
  · exact Memory.wf_write h v hroom

/-- A write to RAM. -/
theorem State.put_mem {s : State} {addr : Word} {w : Width} {v : Word} (h : s.isDevice addr = false) :
    (s.put addr w v).mem = s.mem.write addr w v := by simp [State.put, h]
theorem State.put_deviceLog {s : State} {addr : Word} {w : Width} {v : Word} (h : s.isDevice addr = false) :
    (s.put addr w v).deviceLog = s.deviceLog := by simp [State.put, h]

theorem State.put_quiet (s : State) {addr : Word} {w : Width} (hroom : addr.toNat + widthBytes w ≤ 2 ^ 32)
    (v : Word) : Quiet s (s.put addr w v) where
  pc := by simp
  cpsr := by simp
  spsrs := by simp
  platform := by simp
  inputs := by simp
  wf := State.put_wf hroom v
  banked := by simp
  noted := by
    refine ⟨by unfold State.put; split <;> rfl, [⟨addr, widthBytes w⟩], by unfold State.put; split <;> rfl, fun a ha =>
      ⟨⟨addr, widthBytes w⟩, List.mem_singleton_self _, ?_⟩⟩
    by_cases hd : s.isDevice addr = true
    · exact absurd (by simp [State.put, hd]) ha
    · rw [State.put_mem (by simpa using hd)] at ha
      have := mt (Memory.get_write_other s.mem addr w v a) ha
      simp only
      omega

/-- Every address that the bus is sent leaves room for the access. -/
theorem StoreKind.room (k : StoreKind) (ea : Word) : (k.address ea).toNat + widthBytes k.width ≤ 2 ^ 32 := by
  cases k
  · have := alignWord_room ea; simp only [StoreKind.address, StoreKind.width, widthBytes]; omega
  · have := ea.isLt; simp only [StoreKind.address, StoreKind.width, widthBytes]; omega
  · have := alignHalf_room ea; simp only [StoreKind.address, StoreKind.width, widthBytes]; omega

theorem alignWord_fits (v : Word) : (alignWord v).toNat + widthBytes .word ≤ 2 ^ 32 := by
  have := alignWord_room v; simp only [widthBytes]; omega

/-- A read either aborts or takes the value. -/
theorem State.busRead_some {s t : State} {user : Bool} {ea addr v : Word} {w : Width}
    (h : s.busRead user ea addr w = some (v, t)) : s.aborts .read user ea w = false ∧ s.take addr w = (v, t) := by
  unfold State.busRead at h; split at h
  · cases h
  · exact ⟨by simp_all, by simpa using h⟩

theorem State.busRead_quiet {s t : State} {user : Bool} {ea addr v : Word} {w : Width}
    (h : s.busRead user ea addr w = some (v, t)) : Quiet s t ∧ t.mem = s.mem ∧ t.regs = s.regs := by
  have h' := (State.busRead_some h).2
  have e : t = (s.take addr w).2 := by rw [h']
  subst e
  exact ⟨State.take_quiet s addr w, by simp, by simp⟩

theorem State.busWrite_some {s t : State} {user : Bool} {ea addr v : Word} {w : Width}
    (h : s.busWrite user ea addr w v = some t) : s.aborts .write user ea w = false ∧ t = s.put addr w v := by
  unfold State.busWrite at h; split at h
  · cases h
  · exact ⟨by simp_all, by simpa using h.symm⟩

theorem State.busRead_ram {s : State} {user : Bool} {ea addr : Word} {w : Width} (h : ReachesRam s .read user ea addr w) :
    s.busRead user ea addr w = some (s.mem.read addr w, s) := by
  simp [State.busRead, h.1, State.take_ram h.2]

theorem State.busWrite_ram {s : State} {user : Bool} {ea addr v : Word} {w : Width}
    (h : ReachesRam s .write user ea addr w) : s.busWrite user ea addr w v = some (s.put addr w v) := by
  simp [State.busWrite, h.1]

/-! ## Runs of words -/

theorem State.scatter_quiet (vs : List Word) : ∀ (s : State) (addr : Word),
    Quiet s (s.scatter addr vs) ∧ (s.scatter addr vs).regs = s.regs := by
  induction vs with
  | nil => exact fun s _ => ⟨Quiet.refl s, rfl⟩
  | cons v vs ih =>
    intro s addr
    unfold State.scatter
    have step : Quiet s (if s.freeWord.getLsbD 0 then s.drawn.put (alignWord addr) .word v else s.drawn) ∧
        (if s.freeWord.getLsbD 0 then s.drawn.put (alignWord addr) .word v else s.drawn).regs = s.regs := by
      split
      · exact ⟨(Quiet.drawn s).trans (State.put_quiet _ (alignWord_fits addr) v), by simp⟩
      · exact ⟨Quiet.drawn s, rfl⟩
    exact ⟨step.1.trans (ih _ _).1, (ih _ _).2.trans step.2⟩

/-- Stored words change memory, devices and the window only. -/
theorem State.storeWords_quiet (vs : List Word) : ∀ (s : State) (user : Bool) (addr : Word),
    Quiet s (s.storeWords user addr vs).2 ∧ (s.storeWords user addr vs).2.regs = s.regs := by
  induction vs with
  | nil => exact fun s _ _ => ⟨Quiet.refl s, rfl⟩
  | cons v vs ih =>
    intro s user addr
    unfold State.storeWords
    split
    · exact State.scatter_quiet vs s _
    · rename_i s' h
      obtain ⟨-, rfl⟩ := State.busWrite_some h
      have hq := State.put_quiet s (alignWord_fits addr) v
      exact ⟨hq.trans (ih _ _ _).1, (ih _ _ _).2.trans (by simp)⟩

/-- Loaded words change the device history only. -/
theorem State.loadWords_quiet (n : Nat) : ∀ (s : State) (user : Bool) (addr : Word),
    Quiet s (s.loadWords user addr n).state ∧ (s.loadWords user addr n).state.mem = s.mem ∧
      (s.loadWords user addr n).state.regs = s.regs := by
  induction n with
  | zero => exact fun s _ _ => ⟨Quiet.refl s, rfl, rfl⟩
  | succ n ih =>
    intro s user addr
    unfold State.loadWords
    split
    · exact ⟨Quiet.refl s, rfl, rfl⟩
    · rename_i v s' h
      obtain ⟨h1, h2, h3⟩ := State.busRead_quiet h
      obtain ⟨i1, i2, i3⟩ := ih s' user (addr + 4)
      exact ⟨h1.trans i1, i2.trans h2, i3.trans h3⟩

theorem State.setRegsIn_quiet (m : Mode) : ∀ (rs : List Reg) (vs : List Word) (s : State),
    (m = s.cpsr.mode ∨ m = .usr) → Quiet s (s.setRegsIn m rs vs) ∧ (s.setRegsIn m rs vs).mem = s.mem
  | [], _, s, _ => by unfold State.setRegsIn; exact ⟨Quiet.refl s, rfl⟩
  | _ :: _, [], s, _ => by unfold State.setRegsIn; exact ⟨Quiet.refl s, rfl⟩
  | r :: rs, v :: vs, s, hm => by
    unfold State.setRegsIn
    have h := State.setRegsIn_quiet m rs vs (s.setRegIn m r v) (by simpa using hm)
    exact ⟨(Quiet.setRegIn s hm r v).trans h.1, h.2.trans (by simp)⟩

theorem State.spoilRegsIn_quiet (m : Mode) : ∀ (rs : List Reg) (vs : List Word) (s : State),
    (m = s.cpsr.mode ∨ m = .usr) → Quiet s (s.spoilRegsIn m rs vs) ∧ (s.spoilRegsIn m rs vs).mem = s.mem
  | [], _, s, _ => by unfold State.spoilRegsIn; exact ⟨Quiet.refl s, rfl⟩
  | r :: rs, v :: vs, s, hm => by
    unfold State.spoilRegsIn
    have h := State.spoilRegsIn_quiet m rs vs
      ((s.setRegIn m r (if s.freeWord.getLsbD 0 then v else s.regIn m r 0)).drawn) (by simpa using hm)
    exact ⟨((Quiet.setRegIn s hm r _).trans (Quiet.drawn _)).trans h.1, h.2.trans (by simp)⟩
  | r :: rs, [], s, hm => by
    unfold State.spoilRegsIn
    have h := State.spoilRegsIn_quiet m rs [] ((s.setRegIn m r s.freeWord).drawn) (by simpa using hm)
    exact ⟨((Quiet.setRegIn s hm r _).trans (Quiet.drawn _)).trans h.1, h.2.trans (by simp)⟩

end Sys2Proof.Machine
end

