-- ==== Sys2Proof/Laws/Block.lean ====
section
/-! SUPPORT. Block transfers: where each listed register stands in the list, and what runs of word loads and stores of
RAM leave, completed or aborted. -/

namespace Sys2Proof.Machine

/-! ## Register lists -/

theorem filter_split {α : Type} (p : α → Bool) (l1 l2 : List α) (x : α) (hx : p x = true) :
    ((l1 ++ x :: l2).filter p)[(l1.filter p).length]? = some x := by
  simp [List.filter_append, hx]

/-- `rank` counts the listed registers below one. -/
theorem rank_eq (list : BitVec 16) {i : Nat} (hi : i ≤ 16) :
    rank list i = ((allRegs.take i).filter fun r => list.getLsbD r.toNat).length := by
  have h : (List.range i) = (allRegs.take i).map (·.toNat) := by
    interval_cases i <;> rfl
  rw [rank, h, List.filter_map, List.length_map]
  rfl

theorem listed_length (list : BitVec 16) : (listed list).length = rank list 16 := by
  rw [rank_eq list (Nat.le_refl 16)]; rfl

theorem allRegs_split : ∀ i : Reg, allRegs = allRegs.take i.toNat ++ i :: allRegs.drop (i.toNat + 1) := by decide

/-- A listed register stands at the place that counts those below it. -/
theorem listed_getElem (list : BitVec 16) (i : Reg) (h : list.getLsbD i.toNat = true) :
    (listed list)[rank list i.toNat]? = some i := by
  have hi := i.isLt
  rw [rank_eq list (by omega)]
  have hl : listed list =
      (allRegs.take i.toNat ++ i :: allRegs.drop (i.toNat + 1)).filter fun r => list.getLsbD r.toNat := by
    rw [← allRegs_split i]; rfl
  rw [hl]
  exact filter_split _ _ _ _ h

theorem mem_listed {list : BitVec 16} {i : Reg} : i ∈ listed list ↔ list.getLsbD i.toNat = true := by
  have : i ∈ allRegs := by revert i; decide
  simp [listed, this]

theorem listed_nodup (list : BitVec 16) : (listed list).Nodup := List.Nodup.filter _ (by decide)

theorem rank_lt (list : BitVec 16) (i : Reg) (h : list.getLsbD i.toNat = true) : rank list i.toNat < rank list 16 := by
  have := listed_getElem list i h
  rw [← listed_length]
  by_contra hn
  rw [List.getElem?_eq_none (by omega)] at this
  cases this

theorem rank_le (list : BitVec 16) : rank list 16 ≤ 16 := by
  rw [← listed_length]
  exact Nat.le_trans (List.length_filter_le _ _) (by decide)

/-- Two listed registers of one rank are one register. -/
theorem rank_inj {list : BitVec 16} {i j : Reg} (hi : list.getLsbD i.toNat = true) (hj : list.getLsbD j.toNat = true)
    (h : rank list i.toNat = rank list j.toNat) : i = j := by
  have h1 := listed_getElem list i hi
  have h2 := listed_getElem list j hj
  rw [h, h2] at h1
  exact (Option.some.inj h1).symm

/-- The first listed register is the one of rank 0. -/
theorem listed_head (list : BitVec 16) (i : Reg) (h : list.getLsbD i.toNat = true) :
    (listed list).head? = some i ↔ rank list i.toNat = 0 := by
  rw [List.head?_eq_getElem?]
  constructor
  · intro h0
    have hi := listed_getElem list i h
    by_contra hne
    have hlt := rank_lt list i h
    rw [← listed_length] at hlt
    have := (List.getElem?_inj (i := 0) (j := rank list i.toNat) (by omega) (listed_nodup list)).mp (h0.trans hi.symm)
    omega
  · intro h0
    rw [← h0]
    exact listed_getElem list i h

/-! ## Words -/

/-- The address of the k-th word of a run. -/
def wordAddress (addr : Word) (k : Nat) : Word := alignWord (addr + BitVec.ofNat 32 (4 * k))

theorem wordAddress_succ (addr : Word) (k : Nat) : wordAddress (addr + 4) k = wordAddress addr (k + 1) := by
  unfold wordAddress
  congr 1
  rw [BitVec.add_assoc]
  congr 1
  apply BitVec.eq_of_toNat_eq
  have h4 : (4 : Word).toNat = 4 := rfl
  simp only [BitVec.toNat_add, BitVec.toNat_ofNat, h4]
  omega

theorem wordAddress_zero (addr : Word) : wordAddress addr 0 = alignWord addr := by
  simp [wordAddress]

theorem wordAddress_toNat (addr : Word) (k : Nat) :
    (wordAddress addr k).toNat = (addr.toNat / 4 * 4 + 4 * k) % 2 ^ 32 := by
  rw [wordAddress, alignWord_toNat]
  simp only [BitVec.toNat_add, BitVec.toNat_ofNat]
  omega

/-- The words of a run of up to 2^30 do not overlap. -/
theorem wordAddress_apart (addr : Word) {j k : Nat} (hj : j < 2 ^ 30) (hk : k < 2 ^ 30) (h : j ≠ k) :
    (wordAddress addr j).toNat + 4 ≤ (wordAddress addr k).toNat ∨
      (wordAddress addr k).toNat + 4 ≤ (wordAddress addr j).toNat := by
  rw [wordAddress_toNat, wordAddress_toNat]
  omega

/-- A run of loads of RAM: every word read, nothing changed. -/
theorem State.loadWords_ram (user : Bool) (n : Nat) : ∀ (s : State) (addr : Word),
    (∀ k : Nat, k < n → ReachesRam s .read user (wordAddress addr k) (wordAddress addr k) .word) →
    s.loadWords user addr n = ⟨(List.range n).map fun k => s.mem.read (wordAddress addr k) .word, false, s⟩ := by
  induction n with
  | zero => intro s addr _; rfl
  | succ n ih =>
    intro s addr h
    have h0 := h 0 (by omega)
    rw [wordAddress_zero] at h0
    have hr := ih s (addr + 4) fun k hk => by
      rw [wordAddress_succ]; exact h (k + 1) (by omega)
    have hl : ((List.range n).map fun k => s.mem.read (wordAddress (addr + 4) k) .word) =
        (List.range n).map fun k => s.mem.read (wordAddress addr (k + 1)) .word :=
      List.map_congr_left fun k _ => by rw [wordAddress_succ]
    unfold State.loadWords
    rw [State.busRead_ram h0, List.range_succ_eq_map, List.map_cons, List.map_map, wordAddress_zero]
    dsimp only
    rw [hr, hl]
    rfl

/-- What a run of stores to RAM leaves: no abort, the bytes of each word that no later word overwrites, every other byte as
before. -/
structure StoredRun (s t : State) (addr : Word) (vs : List Word) : Prop where
  outside : ∀ a : Nat, (∀ k : Nat, k < vs.length → a < (wordAddress addr k).toNat ∨ (wordAddress addr k).toNat + 4 ≤ a) →
    t.mem.get a = s.mem.get a
  holds : s.mem.wf = true → ∀ (k : Nat) (v : Word), vs.length ≤ k + 2 ^ 30 → vs[k]? = some v →
    Holds t (wordAddress addr k) .word v
  quiet : Quiet s t
  regs : t.regs = s.regs
  deviceLog : t.deviceLog = s.deviceLog
  coprocLog : t.coprocLog = s.coprocLog
  userLdm : t.userLdm = s.userLdm

theorem State.storeWords_ram (user : Bool) (vs : List Word) : ∀ (s : State) (addr : Word),
    (∀ k : Nat, k < vs.length → ReachesRam s .write user (wordAddress addr k) (wordAddress addr k) .word) →
    (s.storeWords user addr vs).1 = false ∧ StoredRun s (s.storeWords user addr vs).2 addr vs := by
  induction vs with
  | nil =>
    intro s addr _
    exact ⟨rfl, ⟨fun a _ => rfl, fun _ k v _ h => by simp at h, Quiet.refl s, rfl, rfl, rfl, rfl⟩⟩
  | cons v vs ih =>
    intro s addr h
    have h0 := h 0 (by simp)
    rw [wordAddress_zero] at h0
    unfold State.storeWords
    rw [State.busWrite_ram h0]
    have hq := State.put_quiet s (alignWord_fits addr) v
    have hu (k : Nat) (hk : k < vs.length) :
        ReachesRam (s.put (alignWord addr) .word v) .write user (wordAddress (addr + 4) k) (wordAddress (addr + 4) k) .word := by
      have := h (k + 1) (by simpa using hk)
      rw [wordAddress_succ]
      simpa [ReachesRam, State.aborts, State.isDevice] using this
    obtain ⟨h1, hr⟩ := ih (s.put (alignWord addr) .word v) (addr + 4) hu
    refine ⟨h1, ⟨fun a ha => ?_, fun hwf k w hlen hk => ?_, hq.trans hr.quiet, hr.regs.trans (by simp),
      hr.deviceLog.trans (State.put_deviceLog h0.2), hr.coprocLog.trans (by simp), hr.userLdm.trans (by simp)⟩⟩
    · rw [hr.outside a fun k hk => by
        rw [wordAddress_succ]; exact ha (k + 1) (by simpa using hk), State.put_mem h0.2]
      refine Memory.get_write_other _ _ _ _ _ ?_
      have := ha 0 (by simp)
      rw [wordAddress_zero] at this
      simpa [widthBytes] using this
    · cases k with
      | zero =>
        simp only [List.getElem?_cons_zero, Option.some.injEq] at hk
        subst hk
        intro j hj
        simp only [widthBytes] at hj
        rw [hr.outside _ fun k hk' => ?_, State.put_mem h0.2, wordAddress_zero]
        · exact Memory.get_write_inside hwf v (alignWord_fits addr) (by simpa [widthBytes] using hj)
        · simp only [List.length_cons] at hlen
          rw [wordAddress_succ]
          have := wordAddress_apart addr (j := 0) (k := k + 1) (by omega) (by omega) (by omega)
          omega
      | succ k =>
        rw [← wordAddress_succ]
        simp only [List.length_cons] at hlen
        exact hr.holds (State.put_wf (alignWord_fits addr) v hwf) k w (by omega) (by simpa using hk)

/-- Listed registers after a run of loads: each register of the list names the word of its place; a register that none
of the list names is unchanged. -/
theorem State.setRegsIn_get (m : Mode) : ∀ (rs : List Reg) (vs : List Word) (s : State), rs.Nodup →
    rs.length = vs.length →
    (∀ (k : Nat) (i : Reg) (v : Word) (g : GReg), rs[k]? = some i → vs[k]? = some v → physical m i = some g →
      (s.setRegsIn m rs vs).regs.get g = v) ∧
    (∀ g : GReg, (∀ i : Reg, i ∈ rs → physical m i ≠ some g) → (s.setRegsIn m rs vs).regs.get g = s.regs.get g)
  | [], vs, s, _, _ => ⟨fun k i v g h => by simp at h, fun g _ => by simp [State.setRegsIn]⟩
  | r :: rs, [], s, _, hl => by simp at hl
  | r :: rs, v :: vs, s, hn, hl => by
    obtain ⟨hr, hn'⟩ := List.nodup_cons.mp hn
    obtain ⟨ih1, ih2⟩ := State.setRegsIn_get m rs vs (s.setRegIn m r v) hn' (by simpa using hl)
    refine ⟨fun k i w g hi hw hg => ?_, fun g hg => ?_⟩
    · unfold State.setRegsIn
      cases k with
      | zero =>
        simp only [List.getElem?_cons_zero, Option.some.injEq] at hi hw
        subst hi hw
        have hne : r ≠ 15#4 := by rintro rfl; rw [physical_r15] at hg; cases hg
        rw [ih2 g fun j hj hjg => hr ((physical_injective (hg.trans hjg.symm) hne) ▸ hj), State.setRegIn_get, if_pos hg]
      | succ k => exact ih1 k i w g (by simpa using hi) (by simpa using hw) hg
    · unfold State.setRegsIn
      rw [ih2 g fun i hi => hg i (List.mem_cons_of_mem r hi), State.setRegIn_get,
        if_neg (hg r (List.mem_cons_self ..))]

@[simp] theorem State.setRegsIn_mem (m : Mode) : ∀ (rs : List Reg) (vs : List Word) (s : State),
    (s.setRegsIn m rs vs).mem = s.mem
  | [], _, s => by simp [State.setRegsIn]
  | _ :: _, [], s => by simp [State.setRegsIn]
  | r :: rs, v :: vs, s => by simp [State.setRegsIn, State.setRegsIn_mem m rs vs]
@[simp] theorem State.setRegsIn_pc (m : Mode) : ∀ (rs : List Reg) (vs : List Word) (s : State),
    (s.setRegsIn m rs vs).pc = s.pc
  | [], _, s => by simp [State.setRegsIn]
  | _ :: _, [], s => by simp [State.setRegsIn]
  | r :: rs, v :: vs, s => by simp [State.setRegsIn, State.setRegsIn_pc m rs vs]
@[simp] theorem State.setRegsIn_cpsr (m : Mode) : ∀ (rs : List Reg) (vs : List Word) (s : State),
    (s.setRegsIn m rs vs).cpsr = s.cpsr
  | [], _, s => by simp [State.setRegsIn]
  | _ :: _, [], s => by simp [State.setRegsIn]
  | r :: rs, v :: vs, s => by simp [State.setRegsIn, State.setRegsIn_cpsr m rs vs]
theorem State.setRegsIn_rest (m : Mode) : ∀ (rs : List Reg) (vs : List Word) (s : State),
    SameRest s (s.setRegsIn m rs vs)
  | [], _, s => by simp [State.setRegsIn, SameRest]
  | _ :: _, [], s => by simp [State.setRegsIn, SameRest]
  | r :: rs, v :: vs, s => by
    have := State.setRegsIn_rest m rs vs (s.setRegIn m r v)
    simpa [State.setRegsIn, SameRest] using this

/-! ## Runs that end in an abort -/

/-- A run of loads whose word `j` aborts: the words before it read, nothing changed. -/
theorem State.loadWords_abort (user : Bool) : ∀ (n j : Nat) (s : State) (addr : Word), j < n →
    (∀ k : Nat, k < j → ReachesRam s .read user (wordAddress addr k) (wordAddress addr k) .word) →
    s.aborts .read user (wordAddress addr j) .word = true →
    s.loadWords user addr n = ⟨(List.range j).map fun k => s.mem.read (wordAddress addr k) .word, true, s⟩
  | 0, j, s, addr, hj, _, _ => absurd hj (Nat.not_lt_zero j)
  | n + 1, 0, s, addr, _, _, ha => by
    rw [wordAddress_zero] at ha
    simp [State.loadWords, State.busRead, ha]
  | n + 1, j + 1, s, addr, hj, h, ha => by
    have h0 := h 0 (by omega)
    rw [wordAddress_zero] at h0
    have hr := State.loadWords_abort user n j s (addr + 4) (by omega)
      (fun k hk => by rw [wordAddress_succ]; exact h (k + 1) (by omega)) (by rw [wordAddress_succ]; exact ha)
    have hl : ((List.range j).map fun k => s.mem.read (wordAddress (addr + 4) k) .word) =
        (List.range j).map fun k => s.mem.read (wordAddress addr (k + 1)) .word :=
      List.map_congr_left fun k _ => by rw [wordAddress_succ]
    unfold State.loadWords
    rw [State.busRead_ram h0, List.range_succ_eq_map, List.map_cons, List.map_map, wordAddress_zero]
    dsimp only
    rw [hr, hl]
    rfl

/-- Every word at its address is the word stored or as it was; no other byte has changed, nor anything beside memory, the
window and the free-value counter. -/
structure ScatteredRun (s t : State) (addr : Word) (vs : List Word) : Prop where
  outside : ∀ a : Nat, (∀ k : Nat, k < vs.length → a < (wordAddress addr k).toNat ∨ (wordAddress addr k).toNat + 4 ≤ a) →
    t.mem.get a = s.mem.get a
  either : s.mem.wf = true → vs.length ≤ 2 ^ 30 → ∀ (k : Nat) (v : Word), vs[k]? = some v →
    Holds t (wordAddress addr k) .word v ∨
      ∀ n : Nat, n < 4 → t.mem.get ((wordAddress addr k).toNat + n) = s.mem.get ((wordAddress addr k).toNat + n)
  quiet : Quiet s t
  regs : t.regs = s.regs
  deviceLog : t.deviceLog = s.deviceLog
  coprocLog : t.coprocLog = s.coprocLog
  userLdm : t.userLdm = s.userLdm

/-- The words after an aborted store (R552). -/
theorem State.scatter_ram (vs : List Word) : ∀ (s : State) (addr : Word),
    (∀ k : Nat, k < vs.length → s.isDevice (wordAddress addr k) = false) → ScatteredRun s (s.scatter addr vs) addr vs := by
  induction vs with
  | nil =>
    intro s addr _
    exact ⟨fun a _ => rfl, fun _ _ k v h => by simp at h, Quiet.refl s, rfl, rfl, rfl, rfl⟩
  | cons v vs ih =>
    intro s addr h
    have h0 := h 0 (by simp)
    rw [wordAddress_zero] at h0
    unfold State.scatter
    have hd : s.drawn.isDevice (alignWord addr) = false := h0
    generalize hu : (if s.freeWord.getLsbD 0 then s.drawn.put (alignWord addr) .word v else s.drawn) = u
    have step : Quiet s u ∧ u.regs = s.regs ∧ u.deviceLog = s.deviceLog ∧ u.coprocLog = s.coprocLog ∧
        u.userLdm = s.userLdm ∧ (u.mem = s.mem.write (alignWord addr) .word v ∨ u.mem = s.mem) := by
      subst hu
      split
      · exact ⟨(Quiet.drawn s).trans (State.put_quiet _ (alignWord_fits addr) v), by simp, State.put_deviceLog hd,
          by simp, by simp, Or.inl (State.put_mem hd)⟩
      · exact ⟨Quiet.drawn s, rfl, rfl, rfl, rfl, Or.inr rfl⟩
    obtain ⟨hq, hr, hdl, hcl, hul, hm⟩ := step
    have hx := ih u (addr + 4) fun k hk => by
      have := h (k + 1) (by simpa using hk)
      rw [wordAddress_succ]
      simpa [State.isDevice, hq.platform] using this
    refine ⟨fun a ha => ?_, fun hwf hlen k w hk => ?_, hq.trans hx.quiet, hx.regs.trans hr, hx.deviceLog.trans hdl,
      hx.coprocLog.trans hcl, hx.userLdm.trans hul⟩
    · rw [hx.outside a fun k hk => by rw [wordAddress_succ]; exact ha (k + 1) (by simpa using hk)]
      rcases hm with hm | hm <;> rw [hm]
      refine Memory.get_write_other _ _ _ _ _ ?_
      have := ha 0 (by simp)
      rw [wordAddress_zero] at this
      simpa [widthBytes] using this
    · simp only [List.length_cons] at hlen
      cases k with
      | zero =>
        simp only [List.getElem?_cons_zero, Option.some.injEq] at hk
        subst hk
        have same (j : Nat) (hj : j < 4) : (u.scatter (addr + 4) vs).mem.get ((wordAddress addr 0).toNat + j) =
            u.mem.get ((wordAddress addr 0).toNat + j) := by
          refine hx.outside _ fun k hk' => ?_
          rw [wordAddress_succ]
          have := wordAddress_apart addr (j := 0) (k := k + 1) (by omega) (by omega) (by omega)
          omega
        rcases hm with hm | hm
        · refine Or.inl fun j hj => ?_
          simp only [widthBytes] at hj
          rw [same j hj, hm, wordAddress_zero]
          exact Memory.get_write_inside hwf v (alignWord_fits addr) (by simpa [widthBytes] using hj)
        · exact Or.inr fun j hj => by rw [same j hj, hm]
      | succ k =>
        rw [← wordAddress_succ]
        rcases hx.either (hq.wf hwf) (by omega) k w (by simpa using hk) with h' | h'
        · exact Or.inl h'
        · refine Or.inr fun n hn => (h' n hn).trans ?_
          rcases hm with hm | hm <;> rw [hm]
          refine Memory.get_write_other _ _ _ _ _ ?_
          have hk' : k < vs.length := by
            have := List.getElem?_eq_some_iff.mp (by simpa using hk); exact this.1
          have := wordAddress_apart addr (j := 0) (k := k + 1) (by omega) (by omega) (by omega)
          rw [← wordAddress_succ, wordAddress_zero] at this
          simp only [widthBytes]
          omega

/-- A run of stores whose word `j` aborts: the words before it stored, each after it stored or not. -/
theorem State.storeWords_abort (user : Bool) : ∀ (vs : List Word) (j : Nat) (s : State) (addr : Word), j < vs.length →
    (∀ k : Nat, k < j → s.aborts .write user (wordAddress addr k) .word = false) →
    s.aborts .write user (wordAddress addr j) .word = true →
    (∀ k : Nat, k < vs.length → s.isDevice (wordAddress addr k) = false) →
    (s.storeWords user addr vs).1 = true ∧ ScatteredRun s (s.storeWords user addr vs).2 addr vs ∧
      (∀ a : Nat, (∀ k : Nat, k < vs.length → k ≠ j →
        a < (wordAddress addr k).toNat ∨ (wordAddress addr k).toNat + 4 ≤ a) →
        (s.storeWords user addr vs).2.mem.get a = s.mem.get a) ∧
      (s.mem.wf = true → vs.length ≤ 2 ^ 30 → ∀ (k : Nat) (v : Word), k < j → vs[k]? = some v →
        Holds (s.storeWords user addr vs).2 (wordAddress addr k) .word v)
  | [], j, s, addr, hj, _, _, _ => absurd hj (Nat.not_lt_zero j)
  | v :: vs, 0, s, addr, _, _, ha, hd => by
    rw [wordAddress_zero] at ha
    have hx := State.scatter_ram vs s (addr + 4) fun k hk => by
      rw [wordAddress_succ]; exact hd (k + 1) (by simpa using hk)
    unfold State.storeWords
    simp only [State.busWrite, ha, if_true]
    have hout (a : Nat) (h : ∀ k : Nat, k < (v :: vs).length → k ≠ 0 →
        a < (wordAddress addr k).toNat ∨ (wordAddress addr k).toNat + 4 ≤ a) :
        (s.scatter (addr + 4) vs).mem.get a = s.mem.get a :=
      hx.outside a fun k hk => by rw [wordAddress_succ]; exact h (k + 1) (by simpa using hk) (by omega)
    refine ⟨trivial, ⟨fun a h => hout a fun k hk _ => h k hk, fun hwf hlen k w hk => ?_, hx.quiet, hx.regs, hx.deviceLog,
      hx.coprocLog, hx.userLdm⟩, hout, fun _ _ k _ hk => absurd hk (Nat.not_lt_zero k)⟩
    simp only [List.length_cons] at hlen
    cases k with
    | zero =>
      refine Or.inr fun n hn => hout _ fun k hk hk0 => ?_
      simp only [List.length_cons] at hk
      have := wordAddress_apart addr (j := 0) (k := k) (by omega) (by omega) (by omega)
      omega
    | succ k => rw [← wordAddress_succ]; exact hx.either hwf (by omega) k w (by simpa using hk)
  | v :: vs, j + 1, s, addr, hj, hf, ha, hd => by
    have h0 : s.aborts .write user (alignWord addr) .word = false := by
      rw [← wordAddress_zero addr]; exact hf 0 (by omega)
    have hd0 : s.isDevice (alignWord addr) = false := by
      rw [← wordAddress_zero addr]; exact hd 0 (by simp)
    unfold State.storeWords
    rw [State.busWrite_ram ⟨h0, hd0⟩]
    dsimp only
    have hq := State.put_quiet s (alignWord_fits addr) v
    have hsame (k : Nat) : (s.put (alignWord addr) .word v).aborts .write user (wordAddress (addr + 4) k) .word =
        s.aborts .write user (wordAddress addr (k + 1)) .word := by
      rw [wordAddress_succ]; simp [State.aborts]
    obtain ⟨h1, hx, hout, hh⟩ := State.storeWords_abort user vs j (s.put (alignWord addr) .word v) (addr + 4)
      (by simpa using hj) (fun k hk => by rw [hsame]; exact hf (k + 1) (by omega)) (by rw [hsame]; exact ha)
      (fun k hk => by
        have := hd (k + 1) (by simpa using hk)
        rw [wordAddress_succ]
        simpa [State.isDevice] using this)
    generalize (s.put (alignWord addr) .word v).storeWords user (addr + 4) vs = x at h1 hx hout hh
    have hput (a : Nat) (h : a < (wordAddress addr 0).toNat ∨ (wordAddress addr 0).toNat + 4 ≤ a) :
        (s.put (alignWord addr) .word v).mem.get a = s.mem.get a := by
      rw [State.put_mem hd0]
      rw [wordAddress_zero] at h
      exact Memory.get_write_other _ _ _ _ _ (by simpa [widthBytes] using h)
    have hout' (a : Nat) (h : ∀ k : Nat, k < (v :: vs).length → k ≠ j + 1 →
        a < (wordAddress addr k).toNat ∨ (wordAddress addr k).toNat + 4 ≤ a) : x.2.mem.get a = s.mem.get a :=
      (hout a fun k hk hkj => by
        rw [wordAddress_succ]; exact h (k + 1) (by simpa using hk) (by omega)).trans
        (hput a (h 0 (by simp) (by omega)))
    have first (hwf : s.mem.wf = true) (hlen : vs.length + 1 ≤ 2 ^ 30) :
        Holds x.2 (wordAddress addr 0) .word v := by
      intro n hn
      simp only [widthBytes] at hn
      rw [hx.outside _ fun k hk => by
        rw [wordAddress_succ]
        have := wordAddress_apart addr (j := 0) (k := k + 1) (by omega) (by omega) (by omega)
        omega, State.put_mem hd0, wordAddress_zero]
      exact Memory.get_write_inside hwf v (alignWord_fits addr) (by simpa [widthBytes] using hn)
    refine ⟨h1, ⟨fun a h => hout' a fun k hk _ => h k hk, fun hwf hlen k w hk => ?_, hq.trans hx.quiet,
      hx.regs.trans (by simp), hx.deviceLog.trans (State.put_deviceLog hd0), hx.coprocLog.trans (by simp),
      hx.userLdm.trans (by simp)⟩, hout', fun hwf hlen k w hkj hk => ?_⟩ <;> simp only [List.length_cons] at hlen
    · cases k with
      | zero =>
        simp only [List.getElem?_cons_zero, Option.some.injEq] at hk
        subst hk
        exact Or.inl (first hwf hlen)
      | succ k =>
        have hk' : k < vs.length := (List.getElem?_eq_some_iff.mp (by simpa using hk)).1
        rw [← wordAddress_succ]
        refine (hx.either (hq.wf hwf) (by omega) k w (by simpa using hk)).imp_right fun h n hn => (h n hn).trans ?_
        refine hput _ ?_
        have := wordAddress_apart addr (j := 0) (k := k + 1) (by omega) (by omega) (by omega)
        rw [← wordAddress_succ] at this
        omega
    · cases k with
      | zero =>
        simp only [List.getElem?_cons_zero, Option.some.injEq] at hk
        subst hk
        exact first hwf hlen
      | succ k =>
        rw [← wordAddress_succ]
        exact hh (hq.wf hwf) (by omega) k w (by omega) (by simpa using hk)

/-- Listed registers after an aborted load: one that was loaded holds its old or its new value, one that the list does not
name is unchanged (R552). -/
theorem State.spoilRegsIn_get (m : Mode) : ∀ (rs : List Reg) (vs : List Word) (s : State), rs.Nodup →
    (∀ (k : Nat) (i : Reg) (v : Word) (g : GReg), rs[k]? = some i → vs[k]? = some v → physical m i = some g →
      (s.spoilRegsIn m rs vs).regs.get g = s.regs.get g ∨ (s.spoilRegsIn m rs vs).regs.get g = v) ∧
    (∀ g : GReg, (∀ i : Reg, i ∈ rs → physical m i ≠ some g) → (s.spoilRegsIn m rs vs).regs.get g = s.regs.get g)
  | [], vs, s, _ => ⟨fun k i v g h => by simp at h, fun g _ => by simp [State.spoilRegsIn]⟩
  | r :: rs, [], s, hn => by
    obtain ⟨-, ih⟩ := State.spoilRegsIn_get m rs [] ((s.setRegIn m r s.freeWord).drawn) (List.nodup_cons.mp hn).2
    refine ⟨fun k i v g _ h => by simp at h, fun g hg => ?_⟩
    unfold State.spoilRegsIn
    rw [ih g fun i hi => hg i (List.mem_cons_of_mem r hi), State.drawn_regs, State.setRegIn_get,
      if_neg (hg r (List.mem_cons_self ..))]
  | r :: rs, v :: vs, s, hn => by
    obtain ⟨hr, hn'⟩ := List.nodup_cons.mp hn
    generalize hx : (if s.freeWord.getLsbD 0 then v else s.regIn m r 0) = x
    obtain ⟨ih1, ih2⟩ := State.spoilRegsIn_get m rs vs ((s.setRegIn m r x).drawn) hn'
    refine ⟨fun k i w g hi hw hg => ?_, fun g hg => ?_⟩
    · unfold State.spoilRegsIn
      rw [hx]
      have hne : i ≠ 15#4 := by rintro rfl; rw [physical_r15] at hg; cases hg
      cases k with
      | zero =>
        simp only [List.getElem?_cons_zero, Option.some.injEq] at hi hw
        subst hi hw
        rw [ih2 g fun j hj hjg => hr ((physical_injective (hg.trans hjg.symm) hne) ▸ hj), State.drawn_regs,
          State.setRegIn_get, if_pos hg, ← hx]
        split
        · exact Or.inr rfl
        · exact Or.inl (by simp [State.regIn, hg])
      | succ k =>
        have hi' : rs[k]? = some i := by simpa using hi
        have hg' : ¬ physical m r = some g := fun h =>
          hr ((physical_injective (hg.trans h.symm) hne) ▸ List.mem_of_getElem? hi')
        have := ih1 k i w g hi' (by simpa using hw) hg
        rwa [State.drawn_regs, State.setRegIn_get, if_neg hg'] at this
    · unfold State.spoilRegsIn
      rw [hx, ih2 g fun i hi => hg i (List.mem_cons_of_mem r hi), State.drawn_regs, State.setRegIn_get,
        if_neg (hg r (List.mem_cons_self ..))]

theorem State.spoilRegsIn_rest (m : Mode) : ∀ (rs : List Reg) (vs : List Word) (s : State),
    SameRest s (s.spoilRegsIn m rs vs)
  | [], _, s => by simp [State.spoilRegsIn, SameRest]
  | r :: rs, [], s => by
    have := State.spoilRegsIn_rest m rs [] (s.setRegIn m r s.freeWord).drawn
    simpa [State.spoilRegsIn, SameRest] using this
  | r :: rs, v :: vs, s => by
    have := State.spoilRegsIn_rest m rs vs
      (s.setRegIn m r (if s.freeWord.getLsbD 0 then v else s.regIn m r 0)).drawn
    simpa [State.spoilRegsIn, SameRest] using this

end Sys2Proof.Machine
end

