-- ==== Sys2Proof/Laws/Effect.lean ====
section
/-! SUPPORT. What an instruction can do, said once for all 183: `exec_effect`. Whole-machine properties follow from it by
cases on `Effect`. -/

namespace Sys2Proof.Machine

/-- The next states an instruction can lead to: it proceeds to the next instruction, jumps, takes one of its own
exceptions, returns from one, exchanges the instruction set, or writes a status register. -/
inductive Effect (i : Instr) (s : State) : State → Prop where
  | proceed (u : State) (n : Word) (f : Nzcv) (quiet : Quiet s u)
      (size : n = 4 ∨ n = 2 ∧ (encode i).isThumb = true)
      (flags : keepsFlags i = true → f = s.cpsr.flags) (mem : storesMemory i = false → u.mem = s.mem) :
      Effect i s ((u.setFlags f).advance n)
  | jump (u : State) (target : Word) (quiet : Quiet s u)
      (aligned : inItsState i s → pcAligned s → pcAligned (u.branchTo target))
      (mem : storesMemory i = false → u.mem = s.mem) : Effect i s (u.branchTo target)
  | trap (u : State) (r : Raised) (e : Exception) (quiet : Quiet s u) (mode : e.mode = r.mode)
      (vector : Config.vectorBase + e.offset = r.vector) (setsF : e.setsF = false)
      (mem : storesMemory i = false → u.mem = s.mem) : Effect i s (u.enter e)
  | restore (u : State) (p : Psr) (m : Mode) (target : Word) (quiet : Quiet s u) (mem : u.mem = s.mem)
      (writesFlags : keepsFlags i = false) (spsr : s.spsrs.get? s.cpsr.mode = some p) (legal : m.bits = p.m) :
      Effect i s (State.branchTo { u with cpsr := { flags := p.flags, i := p.i, f := p.f, t := p.t, mode := m } }
        (alignPc p.t target))
  | exchange (v : Word) (bx : (∃ (c : Cond) (rn : Reg), i = .bx c rn) ∨ ∃ rs : Reg, i = .tBx rs) :
      Effect i s (s.exchange v)
  | psr (t : State) (writesFlags : keepsFlags i = false) (pc : t.pc = s.pc + 4) (regs : t.regs = s.regs)
      (mem : t.mem = s.mem) (window : t.window = s.window) (thumb : t.cpsr.t = s.cpsr.t)
      (user : s.cpsr.mode = .usr →
        t.cpsr.mode = .usr ∧ t.cpsr.i = s.cpsr.i ∧ t.cpsr.f = s.cpsr.f ∧ t.spsrs = s.spsrs) : Effect i s t

variable {i : Instr} {s u : State}

/-! ## Endings -/

theorem Effect.advance4 (hq : Quiet s u) (hm : storesMemory i = false → u.mem = s.mem) :
    Effect i s (u.advance 4) :=
  Effect.proceed u 4 u.cpsr.flags hq (Or.inl rfl) (fun _ => by rw [hq.cpsr]) hm

theorem Effect.advance2 (hth : (encode i).isThumb = true) (hq : Quiet s u)
    (hm : storesMemory i = false → u.mem = s.mem) : Effect i s (u.advance 2) :=
  Effect.proceed u 2 u.cpsr.flags hq (Or.inr ⟨rfl, hth⟩) (fun _ => by rw [hq.cpsr]) hm

theorem Effect.skip : Effect i s (s.advance 4) := Effect.advance4 (Quiet.refl s) fun _ => rfl

theorem Effect.dataAbort (hq : Quiet s u) (hm : storesMemory i = false → u.mem = s.mem) :
    Effect i s (u.enter .dataAbort) := Effect.trap u .dataAbort .dataAbort hq rfl (by decide) rfl hm

theorem pcAligned_of_dvd4 {t : State} (h : t.pc.toNat % 4 = 0) : pcAligned t := by
  unfold pcAligned; split <;> omega

theorem alignWord_mod (v : Word) : (alignWord v).toNat % 4 = 0 := by rw [alignWord_toNat]; omega
theorem alignHalf_mod (v : Word) : (alignHalf v).toNat % 2 = 0 := by rw [alignHalf_toNat]; omega

/-- A branch to a word-aligned address, from either state. -/
theorem Effect.jumpWord (hq : Quiet s u) (hm : storesMemory i = false → u.mem = s.mem) (v : Word) :
    Effect i s (u.branchTo (alignWord v)) :=
  Effect.jump u _ hq (fun _ _ => pcAligned_of_dvd4 (alignWord_mod v)) hm

/-- A branch of a THUMB instruction to a halfword-aligned address. -/
theorem Effect.jumpHalf (hth : (encode i).isThumb = true) (hq : Quiet s u)
    (hm : storesMemory i = false → u.mem = s.mem) {a : Word} (ha : pcAligned s → s.cpsr.t = true → a.toNat % 2 = 0) :
    Effect i s (u.branchTo a) := by
  refine Effect.jump u a hq (fun hi hp => ?_) hm
  have ht : s.cpsr.t = true := by rw [hi, hth]
  have : u.cpsr.t = true := by rw [hq.cpsr, ht]
  simp only [pcAligned, State.branchTo_cpsr, this, if_true, State.branchTo_pc]
  exact ha hp ht

/-- A return from an exception, from a state that differs quietly. -/
theorem Ends.exceptionReturn (hq : Quiet s u) (hmem : u.mem = s.mem) (hk : keepsFlags i = false) (target : Word) :
    Ends (u.exceptionReturn target) (Effect i s) := by
  unfold State.exceptionReturn
  split
  · exact Ends.refused
  · rename_i p hp
    split
    · exact Ends.refused
    · rename_i m hm
      have hp' : s.spsrs.get? s.cpsr.mode = some p := by rw [← hq.spsrs, ← hq.cpsr]; exact hp
      exact Ends.next (Effect.restore u p m target hq hmem hk hp' (Mode.bits_of_ofBits hm))

/-! ## Data processing, multiplies, PSR transfers -/

theorem Ends.aluWrite (hk : keepsFlags i = false) (sf : Bool) (rd : Reg) (r : AluResult) :
    Ends (s.aluWrite sf rd r) (Effect i s) := by
  unfold State.aluWrite
  split
  · split
    · exact Ends.exceptionReturn (Quiet.refl s) rfl hk _
    · exact Ends.next (Effect.jumpWord (Quiet.refl s) (fun _ => rfl) _)
  · refine Ends.next ?_
    have hq := Quiet.setReg s rd r.value
    split
    · exact Effect.proceed _ 4 r.flags hq (Or.inl rfl) (by simp [hk]) (by simp)
    · exact Effect.advance4 hq (by simp)

theorem Effect.writeFlags (hk : keepsFlags i = false) (hq : Quiet s u) (hm : storesMemory i = false → u.mem = s.mem)
    (f : Nzcv) : Effect i s ((u.setFlags f).advance 4) :=
  Effect.proceed u 4 f hq (Or.inl rfl) (by simp [hk]) hm

theorem Ends.aluImm (hk : keepsFlags i = false) (f : AluFn) (c : Cond) (sf : Bool) (rn rd : Reg) (o : Op2Imm) :
    Ends (aluImm f c sf rn rd o s) (Effect i s) := Ends.conditional Effect.skip (Ends.aluWrite hk _ _ _)
theorem Ends.aluShImm (hk : keepsFlags i = false) (f : AluFn) (c : Cond) (sf : Bool) (rn rd : Reg) (o : Op2ShImm) :
    Ends (aluShImm f c sf rn rd o s) (Effect i s) := Ends.conditional Effect.skip (Ends.aluWrite hk _ _ _)
theorem Ends.aluShReg (hk : keepsFlags i = false) (f : AluFn) (c : Cond) (sf : Bool) (rn rd : Reg) (o : Op2ShReg) :
    Ends (aluShReg f c sf rn rd o s) (Effect i s) :=
  Ends.conditional Effect.skip (Ends.refuseIf (Ends.aluWrite hk _ _ _))
theorem Ends.moveImm (hk : keepsFlags i = false) (f : AluFn) (c : Cond) (sf : Bool) (rd : Reg) (o : Op2Imm) :
    Ends (moveImm f c sf rd o s) (Effect i s) := Ends.conditional Effect.skip (Ends.aluWrite hk _ _ _)
theorem Ends.moveShImm (hk : keepsFlags i = false) (f : AluFn) (c : Cond) (sf : Bool) (rd : Reg) (o : Op2ShImm) :
    Ends (moveShImm f c sf rd o s) (Effect i s) := Ends.conditional Effect.skip (Ends.aluWrite hk _ _ _)
theorem Ends.moveShReg (hk : keepsFlags i = false) (f : AluFn) (c : Cond) (sf : Bool) (rd : Reg) (o : Op2ShReg) :
    Ends (moveShReg f c sf rd o s) (Effect i s) :=
  Ends.conditional Effect.skip (Ends.refuseIf (Ends.aluWrite hk _ _ _))
theorem Ends.compareImm (hk : keepsFlags i = false) (f : AluFn) (c : Cond) (rn : Reg) (o : Op2Imm) :
    Ends (compareImm f c rn o s) (Effect i s) :=
  Ends.conditional Effect.skip (Ends.next (Effect.writeFlags hk (Quiet.refl s) (fun _ => rfl) _))
theorem Ends.compareShImm (hk : keepsFlags i = false) (f : AluFn) (c : Cond) (rn : Reg) (o : Op2ShImm) :
    Ends (compareShImm f c rn o s) (Effect i s) :=
  Ends.conditional Effect.skip (Ends.next (Effect.writeFlags hk (Quiet.refl s) (fun _ => rfl) _))
theorem Ends.compareShReg (hk : keepsFlags i = false) (f : AluFn) (c : Cond) (rn : Reg) (o : Op2ShReg) :
    Ends (compareShReg f c rn o s) (Effect i s) :=
  Ends.conditional Effect.skip
    (Ends.refuseIf (Ends.next (Effect.writeFlags hk (Quiet.refl s) (fun _ => rfl) _)))

theorem Ends.multiply (hk : keepsFlags i = false) (c : Cond) (sf : Bool) (rd rs rm : Reg) (others : List Reg)
    (acc : State → Word) : Ends (multiply c sf rd rs rm others acc s) (Effect i s) := by
  refine Ends.conditional Effect.skip (Ends.refuseIf (Ends.refuseIf ?_))
  unfold State.mulWrite
  refine Ends.next ?_
  have hq := Quiet.setReg s rd (s.reg rm 8 * s.reg rs 8 + acc s)
  split
  · exact Effect.writeFlags hk (hq.trans (Quiet.drawn _)) (by simp) _
  · exact Effect.advance4 hq (by simp)

theorem Ends.longMultiply (hk : keepsFlags i = false) (product : Word → Word → BitVec 64) (accumulate : Bool)
    (c : Cond) (sf : Bool) (rdHi rdLo rs rm : Reg) :
    Ends (longMultiply product accumulate c sf rdHi rdLo rs rm s) (Effect i s) := by
  refine Ends.conditional Effect.skip (Ends.refuseIf (Ends.refuseIf (Ends.next ?_)))
  split
  · exact Effect.writeFlags hk (((Quiet.setReg s rdLo _).trans (Quiet.setReg _ rdHi _)).trans (Quiet.drawn _))
      (by simp) _
  · exact Effect.advance4 ((Quiet.setReg s rdLo _).trans (Quiet.setReg _ rdHi _)) (by simp)

theorem Ends.mrs (spsr : Bool) (rd : Reg) : Ends (s.mrs spsr rd) (Effect i s) := by
  have h (v : Word) : Ends (.next (((s.setReg rd v).drawn).advance 4)) (Effect i s) :=
    Ends.next (Effect.advance4 ((Quiet.setReg s rd v).trans (Quiet.drawn _)) (by simp))
  unfold State.mrs
  dsimp only
  split
  · split
    · exact Ends.refused
    · exact h _
  · exact h _

theorem Ends.msrCpsr (hk : keepsFlags i = false) (m : FieldMask) (w : Word) :
    Ends (s.msrCpsr m w) (Effect i s) := by
  unfold State.msrCpsr Machine.refuseIf
  dsimp only
  split
  · exact Ends.refused
  · rename_i ht
    split
    · exact Ends.refused
    · rename_i mode hmode
      refine Ends.next (Effect.psr _ hk rfl rfl rfl rfl (by simpa using ht) fun hu => ?_)
      have hp : s.cpsr.mode.privileged = false := by rw [hu]; rfl
      simp only [hp, Bool.and_false, Psr.merge, Cpsr.saved, Bool.false_eq_true, if_false] at hmode ⊢
      rw [Mode.ofBits_bits] at hmode
      cases hmode
      exact ⟨hu, rfl, rfl, rfl⟩

theorem Ends.msrSpsr (hk : keepsFlags i = false) (m : FieldMask) (w : Word) :
    Ends (s.msrSpsr m w) (Effect i s) := by
  unfold State.msrSpsr
  split
  · exact Ends.refused
  · rename_i p hp
    refine Ends.next (Effect.psr _ hk rfl rfl rfl rfl rfl fun hu => ?_)
    rw [hu] at hp; cases hp

theorem Ends.msr (hk : keepsFlags i = false) (spsr : Bool) (m : FieldMask) (w : Word) :
    Ends (s.msr spsr m w) (Effect i s) := by
  unfold State.msr; split
  · exact Ends.msrSpsr hk m w
  · exact Ends.msrCpsr hk m w

/-! ## Transfers -/

theorem Ends.load (hsz : ∀ v : State, Quiet s v → v.mem = s.mem → Effect i s (v.advance size)) (k : LoadKind)
    (user : Bool) (rn rd : Reg) (a : Addressing) : Ends (s.load k user size rn rd a) (Effect i s) := by
  unfold State.load
  split
  · exact Ends.next (Effect.dataAbort (Quiet.writeBack s rn a) (by simp))
  · rename_i raw s' h
    obtain ⟨hq, hm, -⟩ := State.busRead_quiet h
    have hq' := hq.trans (Quiet.writeBack s' rn a)
    split
    · exact Ends.next (Effect.jumpWord hq' (by simp [hm]) _)
    · exact Ends.next (hsz _ (hq'.trans (Quiet.setReg _ rd _)) (by simp [hm]))

theorem Ends.store (hsz : ∀ v : State, Quiet s v → Effect i s (v.advance size))
    (k : StoreKind) (user : Bool) (rn rd : Reg) (a : Addressing) :
    Ends (s.store k user size rn rd a) (Effect i s) := by
  unfold State.store
  split
  · exact Ends.next (Effect.dataAbort (Quiet.writeBack s rn a) (by simp))
  · rename_i s' h
    obtain ⟨-, rfl⟩ := State.busWrite_some h
    exact Ends.next (hsz _ ((State.put_quiet s (StoreKind.room k _) _).trans (Quiet.writeBack _ rn a)))

theorem Effect.advance4_same {v : State} (hq : Quiet s v) (hm : v.mem = s.mem) : Effect i s (v.advance 4) :=
  Effect.advance4 hq fun _ => hm

theorem Effect.advance4_store (hst : storesMemory i = true) {v : State} (hq : Quiet s v) : Effect i s (v.advance 4) :=
  Effect.advance4 hq (by simp [hst])

/-- A load or a store as the addressing forms use it. -/
def Transfer.Moves (op : Transfer) (i : Instr) : Prop :=
  ∀ (s : State) (rn rd : Reg) (a : Addressing), Ends (op s rn rd a) (Effect i s)

theorem Transfer.moves_load (k : LoadKind) : Transfer.Moves (loadOp k) i :=
  fun _ rn rd a => Ends.load (fun _ => Effect.advance4_same) k _ rn rd a
theorem Transfer.moves_loadUser (k : LoadKind) : Transfer.Moves (loadUserOp k) i :=
  fun _ rn rd a => Ends.load (fun _ => Effect.advance4_same) k _ rn rd a
theorem Transfer.moves_store (hst : storesMemory i = true) (k : StoreKind) : Transfer.Moves (storeOp k) i :=
  fun _ rn rd a => Ends.store (fun _ => Effect.advance4_store hst) k _ rn rd a
theorem Transfer.moves_storeUser (hst : storesMemory i = true) (k : StoreKind) : Transfer.Moves (storeUserOp k) i :=
  fun _ rn rd a => Ends.store (fun _ => Effect.advance4_store hst) k _ rn rd a

theorem Ends.immPre {op : Transfer} (h : op.Moves i) (c : Cond) (up wb : Bool) (rn rd : Reg) (off : BitVec 12) :
    Ends (immPre op c up wb rn rd off s) (Effect i s) := Ends.conditional Effect.skip (Ends.checkWriteBack (h _ _ _ _))
theorem Ends.immPost {op : Transfer} (h : op.Moves i) (c : Cond) (up : Bool) (rn rd : Reg) (off : BitVec 12) :
    Ends (immPost op c up rn rd off s) (Effect i s) := Ends.conditional Effect.skip (Ends.checkWriteBack (h _ _ _ _))
theorem Ends.regPre {op : Transfer} (h : op.Moves i) (c : Cond) (up wb : Bool) (rn rd : Reg) (o : Op2ShImm) :
    Ends (regPre op c up wb rn rd o s) (Effect i s) :=
  Ends.conditional Effect.skip (Ends.refuseIf (Ends.checkWriteBack (h _ _ _ _)))
theorem Ends.regPost {op : Transfer} (h : op.Moves i) (c : Cond) (up : Bool) (rn rd : Reg) (o : Op2ShImm) :
    Ends (regPost op c up rn rd o s) (Effect i s) :=
  Ends.conditional Effect.skip (Ends.refuseIf (Ends.checkWriteBack (h _ _ _ _)))
theorem Ends.halfReg {op : Transfer} (h : op.Moves i) (c : Cond) (ix : HalfIndex) (up : Bool) (rn rd rm : Reg) :
    Ends (halfReg op c ix up rn rd rm s) (Effect i s) :=
  Ends.conditional Effect.skip (Ends.refuseIf (Ends.checkWriteBack (h _ _ _ _)))
theorem Ends.halfImm {op : Transfer} (h : op.Moves i) (c : Cond) (ix : HalfIndex) (up : Bool) (rn rd : Reg)
    (off : BitVec 8) : Ends (halfImm op c ix up rn rd off s) (Effect i s) :=
  Ends.conditional Effect.skip (Ends.checkWriteBack (h _ _ _ _))

/-! ## Block transfers -/

theorem Ends.storeBlock (hst : storesMemory i = true) (hsz : ∀ v : State, Quiet s v → Effect i s (v.advance size))
    (m : Mode) (b : Block) : Ends (s.storeBlock m size b) (Effect i s) := by
  unfold State.storeBlock
  have h := (State.storeWords_quiet ((listed b.list).map (s.blockValue m b)) s s.userMode b.start).1
  split
  · rename_i s' hs
    rw [hs] at h
    exact Ends.next (Effect.dataAbort (h.trans (Quiet.blockBase s' b)) (by simp [hst]))
  · rename_i s' hs
    rw [hs] at h
    exact Ends.next (hsz _ (h.trans (Quiet.blockBase s' b)))

/-- A block load, from a state that differs quietly. -/
theorem Ends.loadBlock (hq : Quiet s u) (hmem : u.mem = s.mem) {m : Mode} (hm : m = s.cpsr.mode ∨ m = .usr) (b : Block)
    {finish : Word → State → Result}
    (hf : ∀ (last : Word) (v : State), Quiet s v → v.mem = s.mem → Ends (finish last v) (Effect i s)) :
    Ends (u.loadBlock m b finish) (Effect i s) := by
  unfold State.loadBlock
  obtain ⟨h1, h2, -⟩ := State.loadWords_quiet (listed b.list).length u u.userMode b.start
  generalize u.loadWords u.userMode b.start (listed b.list).length = run at h1 h2
  replace h1 := hq.trans h1
  replace h2 := h2.trans hmem
  have hm' : m = run.state.cpsr.mode ∨ m = .usr := by rw [h1.cpsr]; exact hm
  dsimp only
  split
  · unfold State.abortBlock
    have h := State.spoilRegsIn_quiet m (listed b.list) run.words run.state hm'
    exact Ends.next (Effect.dataAbort ((h1.trans h.1).trans (Quiet.setReg _ _ _)) (by simp [h.2, h2]))
  · have h := State.setRegsIn_quiet m (listed b.list) run.words run.state hm'
    refine hf _ _ ?_ ?_ <;> unfold State.endLoad <;> dsimp only <;> split
    · exact h1.trans h.1
    · exact (h1.trans h.1).trans (Quiet.blockBase _ b)
    · exact h.2.trans h2
    · exact (State.blockBase_mem _ b).trans (h.2.trans h2)

theorem Ends.finishLoad4 (list : BitVec 16) (last : Word) {v : State} (hq : Quiet s v) (hm : v.mem = s.mem) :
    Ends (finishLoad list 4 alignWord last v) (Effect i s) := by
  unfold finishLoad; split
  · exact Ends.next (Effect.jumpWord hq (fun _ => hm) _)
  · exact Ends.next (Effect.advance4_same hq hm)

theorem Ends.finishLoad2 (hth : (encode i).isThumb = true) (list : BitVec 16) (last : Word) {v : State}
    (hq : Quiet s v) (hm : v.mem = s.mem) : Ends (finishLoad list 2 alignHalf last v) (Effect i s) := by
  unfold finishLoad; split
  · exact Ends.next (Effect.jumpHalf hth hq (fun _ => hm) fun _ _ => alignHalf_mod _)
  · exact Ends.next (Effect.advance2 hth hq fun _ => hm)

/-! ## Swap and coprocessors -/

theorem Ends.swap (hst : storesMemory i = true) (k : LoadKind) (st : StoreKind) (rn rd rm : Reg) :
    Ends (s.swap k st rn rd rm) (Effect i s) := by
  unfold State.swap
  refine Ends.refuseIf ?_
  dsimp only
  split
  · exact Ends.next (Effect.dataAbort (Quiet.refl s) (by simp [hst]))
  · rename_i raw s1 h1
    obtain ⟨hq, -, -⟩ := State.busRead_quiet h1
    split
    · exact Ends.next (Effect.dataAbort hq (by simp [hst]))
    · rename_i s2 h2
      obtain ⟨-, rfl⟩ := State.busWrite_some h2
      exact Ends.next (Effect.advance4_store hst
        ((hq.trans (State.put_quiet s1 (StoreKind.room st _) _)).trans (Quiet.setReg _ rd _)))

theorem Ends.coprocessor {c : Cond} {p : BitVec 4} {act : State → Result} (h : Ends (act s) (Effect i s)) :
    Ends (coprocessor c p s act) (Effect i s) := by
  refine Ends.conditional Effect.skip ?_
  split
  · exact h
  · exact Ends.next (Effect.trap s .undefined .undefined (Quiet.refl s) rfl (by decide) rfl fun _ => rfl)

theorem Ends.ldc (long : Bool) (rn : Reg) (cd p : BitVec 4) (a : Addressing) :
    Ends (s.ldc long rn cd p a) (Effect i s) := by
  unfold State.ldc
  obtain ⟨h1, h2, -⟩ := State.loadWords_quiet (Config.coprocCount s.coprocLog p long cd) s s.userMode a.ea
  dsimp only
  split
  · exact Ends.next (Effect.dataAbort ((h1.trans (Quiet.tell _ _)).trans (Quiet.writeBack _ rn a)) (by simp [h2]))
  · exact Ends.next
      (Effect.advance4_same ((h1.trans (Quiet.tell _ _)).trans (Quiet.writeBack _ rn a)) (by simp [h2]))

theorem Ends.stc (hst : storesMemory i = true) (long : Bool) (rn : Reg) (cd p : BitVec 4) (a : Addressing) :
    Ends (s.stc long rn cd p a) (Effect i s) := by
  unfold State.stc
  have h := (State.storeWords_quiet ((List.range (Config.coprocCount s.coprocLog p long cd)).map
    (Config.coprocStc s.coprocLog p long cd)) s s.userMode a.ea).1
  dsimp only
  split
  · rename_i s' hs
    rw [hs] at h
    exact Ends.next (Effect.dataAbort ((h.trans (Quiet.tell _ _)).trans (Quiet.writeBack _ rn a)) (by simp [hst]))
  · rename_i s' hs
    rw [hs] at h
    exact Ends.next (Effect.advance4_store hst ((h.trans (Quiet.tell _ _)).trans (Quiet.writeBack _ rn a)))

/-! ## THUMB -/

theorem Ends.thumbWrite (hk : keepsFlags i = false) (hth : (encode i).isThumb = true) (rd : LoReg) (r : AluResult) :
    Ends (s.thumbWrite rd r) (Effect i s) :=
  Ends.next (Effect.proceed _ 2 r.flags (Quiet.setReg s (lo rd) r.value) (Or.inr ⟨rfl, hth⟩) (by simp [hk]) (by simp))

theorem Ends.thumbAlu (hk : keepsFlags i = false) (hth : (encode i).isThumb = true) (f : AluFn) (rd : LoReg)
    (a b : Word) : Ends (s.thumbAlu f rd a b) (Effect i s) := Ends.thumbWrite hk hth _ _
theorem Ends.thumbShiftImm (hk : keepsFlags i = false) (hth : (encode i).isThumb = true) (ty : ShiftType)
    (k : BitVec 5) (rs rd : LoReg) : Ends (s.thumbShiftImm ty k rs rd) (Effect i s) := Ends.thumbWrite hk hth _ _
theorem Ends.thumbShiftReg (hk : keepsFlags i = false) (hth : (encode i).isThumb = true) (ty : ShiftType)
    (rs rd : LoReg) : Ends (s.thumbShiftReg ty rs rd) (Effect i s) := Ends.thumbWrite hk hth _ _
theorem Ends.thumbCompare (hk : keepsFlags i = false) (hth : (encode i).isThumb = true) (f : AluFn) (a b : Word) :
    Ends (s.thumbCompare f a b) (Effect i s) :=
  Ends.next (Effect.proceed s 2 _ (Quiet.refl s) (Or.inr ⟨rfl, hth⟩) (by simp [hk]) fun _ => rfl)

theorem Ends.thumbSet (hth : (encode i).isThumb = true) (d : Reg) (v : Word) :
    Ends (.next ((s.setReg d v).advance 2)) (Effect i s) :=
  Ends.next (Effect.advance2 hth (Quiet.setReg s d v) (by simp))

theorem Ends.thumbHiWrite (hth : (encode i).isThumb = true) (d : Reg) (v : Word) :
    Ends (s.thumbHiWrite d v) (Effect i s) := by
  unfold State.thumbHiWrite; split
  · exact Ends.next (Effect.jumpHalf hth (Quiet.refl s) (fun _ => rfl) fun _ _ => alignHalf_mod _)
  · exact Ends.thumbSet hth d v

theorem Ends.thumbLoad (hth : (encode i).isThumb = true) (k : LoadKind) (rd : LoReg) (ea : Word) :
    Ends (s.thumbLoad k rd ea) (Effect i s) :=
  Ends.load (fun _ hq hm => Effect.advance2 hth hq fun _ => hm) k _ _ _ _
theorem Ends.thumbStore (hst : storesMemory i = true) (hth : (encode i).isThumb = true) (k : StoreKind) (rd : LoReg)
    (ea : Word) : Ends (s.thumbStore k rd ea) (Effect i s) :=
  Ends.store (fun _ hq => Effect.advance2 hth hq (by simp [hst])) k _ _ _ _

/-- A THUMB branch relative to pc keeps the PC even. -/
theorem thumb_target_even {n : Nat} (hp : pcAligned s) (ht : s.cpsr.t = true) (off : BitVec n) :
    (s.pc + 4 + sext off * 2).toNat % 2 = 0 := by
  simp only [pcAligned, ht, if_true] at hp
  have e : (sext off * 2).toNat % 2 = 0 := by simp [BitVec.toNat_mul]
  have e4 : (4 : Word).toNat = 4 := rfl
  simp only [BitVec.toNat_add, e4]
  omega

theorem Ends.thumbJump (hth : (encode i).isThumb = true) {n : Nat} (off : BitVec n) :
    Ends (.next (s.branchTo (s.pc + 4 + sext off * 2))) (Effect i s) :=
  Ends.next (Effect.jumpHalf hth (Quiet.refl s) (fun _ => rfl) fun hp ht => thumb_target_even hp ht off)

theorem Ends.thumbCondBranch (hth : (encode i).isThumb = true) (c : Cond) (off : BitVec 8) :
    Ends (s.thumbCondBranch c off) (Effect i s) := by
  unfold State.thumbCondBranch; split
  · exact Ends.thumbJump hth off
  · exact Ends.next (Effect.advance2 hth (Quiet.refl s) fun _ => rfl)

/-- An ARM branch relative to pc keeps the PC aligned. -/
theorem arm_target_aligned {t : State} (ht : t.cpsr.t = s.cpsr.t) (hp : pcAligned s) (off : BitVec 24)
    (hpc : t.pc = s.pc + 8 + sext off * 4) : pcAligned t := by
  unfold pcAligned at hp ⊢
  rw [ht, hpc]
  have e : (sext off * 4).toNat % 4 = 0 := by simp [BitVec.toNat_mul]
  have e8 : (8 : Word).toNat = 8 := rfl
  simp only [BitVec.toNat_add, e8]
  split at hp <;> simp_all <;> omega

/-! ## All instructions -/

/-- What an instruction can do. -/
theorem exec_effect (i : Instr) (s : State) : Ends (exec i s) (Effect i s) := by
  cases i with
  | b =>
    simp only [exec, execB]
    refine Ends.conditional Effect.skip ?_
    exact Ends.next
      (Effect.jump s _ (Quiet.refl s) (fun _ hp => arm_target_aligned (s := s) rfl hp _ rfl) fun _ => rfl)
  | bl =>
    simp only [exec, execBl]
    refine Ends.conditional Effect.skip ?_
    exact Ends.next
      (Effect.jump _ _ (Quiet.setReg s _ _) (fun _ hp => arm_target_aligned (s := s) (by simp) hp _ rfl) (by simp))
  | bx =>
    simp only [exec, execBx]
    refine Ends.conditional Effect.skip ?_
    exact Ends.refuseIf (Ends.next (Effect.exchange _ (Or.inl ⟨_, _, rfl⟩)))
  | swi =>
    simp only [exec, execSwi]
    refine Ends.conditional Effect.skip ?_
    exact Ends.next
      (Effect.trap s .softwareInterrupt .softwareInterrupt (Quiet.refl s) rfl (by decide) rfl fun _ => rfl)
  | undefined =>
    simp only [exec, execUndefined]
    refine Ends.conditional Effect.skip ?_
    exact Ends.next
      (Effect.trap s .undefined .undefined (Quiet.refl s) rfl (by decide) rfl fun _ => rfl)
  | andImm | eorImm | subImm | rsbImm | addImm | adcImm | sbcImm | rscImm | orrImm | bicImm =>
    exact Ends.aluImm rfl _ _ _ _ _ _
  | andShImm | eorShImm | subShImm | rsbShImm | addShImm | adcShImm | sbcShImm | rscShImm | orrShImm | bicShImm =>
    exact Ends.aluShImm rfl _ _ _ _ _ _
  | andShReg | eorShReg | subShReg | rsbShReg | addShReg | adcShReg | sbcShReg | rscShReg | orrShReg | bicShReg =>
    exact Ends.aluShReg rfl _ _ _ _ _ _
  | tstImm | teqImm | cmpImm | cmnImm =>
    exact Ends.compareImm rfl _ _ _ _
  | tstShImm | teqShImm | cmpShImm | cmnShImm =>
    exact Ends.compareShImm rfl _ _ _ _
  | tstShReg | teqShReg | cmpShReg | cmnShReg =>
    exact Ends.compareShReg rfl _ _ _ _
  | movImm | mvnImm =>
    exact Ends.moveImm rfl _ _ _ _ _
  | movShImm | mvnShImm =>
    exact Ends.moveShImm rfl _ _ _ _ _
  | movShReg | mvnShReg =>
    exact Ends.moveShReg rfl _ _ _ _ _
  | mul =>
    simp only [exec, execMul]
    exact Ends.multiply rfl _ _ _ _ _ _ _
  | mla =>
    simp only [exec, execMla]
    exact Ends.multiply rfl _ _ _ _ _ _ _
  | umull =>
    simp only [exec, execUmull]
    exact Ends.longMultiply rfl _ _ _ _ _ _ _ _
  | umlal =>
    simp only [exec, execUmlal]
    exact Ends.longMultiply rfl _ _ _ _ _ _ _ _
  | smull =>
    simp only [exec, execSmull]
    exact Ends.longMultiply rfl _ _ _ _ _ _ _ _
  | smlal =>
    simp only [exec, execSmlal]
    exact Ends.longMultiply rfl _ _ _ _ _ _ _ _
  | mrs =>
    simp only [exec, execMrs]
    refine Ends.conditional Effect.skip ?_
    exact Ends.refuseIf (Ends.mrs _ _)
  | msrReg =>
    simp only [exec, execMsrReg]
    refine Ends.conditional Effect.skip ?_
    exact Ends.refuseIf (Ends.msr rfl _ _ _)
  | msrImm =>
    simp only [exec, execMsrImm]
    refine Ends.conditional Effect.skip ?_
    exact Ends.msr rfl _ _ _
  | ldrImmPre | ldrbImmPre =>
    exact Ends.immPre (Transfer.moves_load _) _ _ _ _ _ _
  | ldrImmPost | ldrbImmPost =>
    exact Ends.immPost (Transfer.moves_load _) _ _ _ _ _
  | ldrRegPre | ldrbRegPre =>
    exact Ends.regPre (Transfer.moves_load _) _ _ _ _ _ _
  | ldrRegPost | ldrbRegPost =>
    exact Ends.regPost (Transfer.moves_load _) _ _ _ _ _
  | strImmPre | strbImmPre =>
    exact Ends.immPre (Transfer.moves_store rfl _) _ _ _ _ _ _
  | strImmPost | strbImmPost =>
    exact Ends.immPost (Transfer.moves_store rfl _) _ _ _ _ _
  | strRegPre | strbRegPre =>
    exact Ends.regPre (Transfer.moves_store rfl _) _ _ _ _ _ _
  | strRegPost | strbRegPost =>
    exact Ends.regPost (Transfer.moves_store rfl _) _ _ _ _ _
  | ldrtImm | ldrbtImm =>
    exact Ends.immPost (Transfer.moves_loadUser _) _ _ _ _ _
  | ldrtReg | ldrbtReg =>
    exact Ends.regPost (Transfer.moves_loadUser _) _ _ _ _ _
  | strtImm | strbtImm =>
    exact Ends.immPost (Transfer.moves_storeUser rfl _) _ _ _ _ _
  | strtReg | strbtReg =>
    exact Ends.regPost (Transfer.moves_storeUser rfl _) _ _ _ _ _
  | strhReg =>
    exact Ends.halfReg (Transfer.moves_store rfl _) _ _ _ _ _ _
  | strhImm =>
    exact Ends.halfImm (Transfer.moves_store rfl _) _ _ _ _ _ _
  | ldrhReg | ldrsbReg | ldrshReg =>
    exact Ends.halfReg (Transfer.moves_load _) _ _ _ _ _ _
  | ldrhImm | ldrsbImm | ldrshImm =>
    exact Ends.halfImm (Transfer.moves_load _) _ _ _ _ _ _
  | stm =>
    simp only [exec, execStm]
    refine Ends.conditional Effect.skip ?_
    exact Ends.checkBlock (Ends.storeBlock rfl (fun _ => Effect.advance4_store rfl) _ _)
  | ldm =>
    simp only [exec, execLdm]
    refine Ends.conditional Effect.skip ?_
    exact Ends.checkBlock (Ends.loadBlock (Quiet.refl _) rfl (Or.inl rfl) _ fun _ _ hq hm => Ends.finishLoad4 _ _ hq hm)
  | ldmPcS =>
    simp only [exec, execLdmPcS]
    refine Ends.conditional Effect.skip ?_
    exact Ends.refuseIf (Ends.refuseIf
      (Ends.loadBlock (Quiet.refl _) rfl (Or.inl rfl) _ fun _ _ hq hm => Ends.exceptionReturn hq hm rfl _))
  | stmS =>
    simp only [exec, execStmS]
    refine Ends.conditional Effect.skip ?_
    exact Ends.checkBlock (Ends.refuseIf (Ends.storeBlock rfl (fun _ => Effect.advance4_store rfl) _ _))
  | ldmUserS =>
    simp only [exec, execLdmUserS]
    refine Ends.conditional Effect.skip ?_
    exact Ends.checkBlock (Ends.refuseIf
      (Ends.loadBlock (Quiet.markUserLdm s) rfl (Or.inr rfl) _ fun _ v hq hm => Ends.next (Effect.advance4_same hq hm)))
  | swp =>
    simp only [exec, execSwp]
    refine Ends.conditional Effect.skip ?_
    exact Ends.swap rfl _ _ _ _ _
  | swpb =>
    simp only [exec, execSwpb]
    refine Ends.conditional Effect.skip ?_
    exact Ends.swap rfl _ _ _ _ _
  | mrc =>
    simp only [exec, execMrc]
    refine Ends.coprocessor (Ends.next ?_)
    split
    · exact Effect.writeFlags rfl (Quiet.tell s _) (fun _ => rfl) _
    · exact Effect.advance4 ((Quiet.tell s _).trans (Quiet.setReg _ _ _)) (by simp)
  | mcr =>
    simp only [exec, execMcr]
    exact Ends.coprocessor (Ends.next (Effect.advance4 (Quiet.tell s _) fun _ => rfl))
  | cdp =>
    simp only [exec, execCdp]
    exact Ends.coprocessor (Ends.next (Effect.advance4 (Quiet.tell s _) fun _ => rfl))
  | ldc =>
    simp only [exec, execLdc]
    exact Ends.coprocessor (Ends.refuseIf (Ends.ldc _ _ _ _ _))
  | stc =>
    simp only [exec, execStc]
    exact Ends.coprocessor (Ends.refuseIf (Ends.stc rfl _ _ _ _ _))
  | tLslImm | tLsrImm | tAsrImm =>
    exact Ends.thumbShiftImm rfl rfl _ _ _ _
  | tAddReg | tSubReg | tAddImm3 | tSubImm3 | tMovImm8 | tAddImm8 | tSubImm8 | tAnd | tEor | tAdc | tSbc | tNeg
  | tOrr | tBic | tMvn =>
    exact Ends.thumbAlu rfl rfl _ _ _ _
  | tCmpImm8 | tTst | tCmpReg | tCmn | tCmpHiDst | tCmpHiSrc =>
    exact Ends.thumbCompare rfl rfl _ _ _
  | tLslReg | tLsrReg | tAsrReg | tRor =>
    exact Ends.thumbShiftReg rfl rfl _ _ _
  | tMul =>
    simp only [exec, execTMul]
    exact Ends.next (Effect.proceed _ 2 _ ((Quiet.setReg s _ _).trans (Quiet.drawn _)) (Or.inr ⟨rfl, rfl⟩) (fun h => by cases h)
    (by simp))
  | tAddHiDst | tAddHiSrc | tMovHiDst | tMovHiSrc =>
    exact Ends.thumbHiWrite rfl _ _
  | tBx =>
    simp only [exec, execTBx]
    exact Ends.next (Effect.exchange _ (Or.inr ⟨_, rfl⟩))
  | tLdrPc | tLdrReg | tLdrbReg | tLdsbReg | tLdrhReg | tLdshReg | tLdrImm | tLdrbImm | tLdrhImm | tLdrSp =>
    exact Ends.thumbLoad rfl _ _ _
  | tStrReg | tStrbReg | tStrhReg | tStrImm | tStrbImm | tStrhImm | tStrSp =>
    exact Ends.thumbStore rfl rfl _ _ _
  | tAddPc | tAddSp | tSpAdd | tSpSub | tBlFirst =>
    exact Ends.thumbSet rfl _ _
  | tPush =>
    simp only [exec, execTPush]
    exact Ends.refuseIf (Ends.storeBlock rfl (fun _ hq => Effect.advance2 rfl hq (fun h => by cases h)) _ _)
  | tPop =>
    simp only [exec, execTPop]
    exact Ends.refuseIf (Ends.loadBlock (Quiet.refl _) rfl (Or.inl rfl) _ fun _ _ hq hm => Ends.finishLoad2 rfl _ _ hq hm)
  | tStmia =>
    simp only [exec, execTStmia]
    exact Ends.refuseIf (Ends.storeBlock rfl (fun _ hq => Effect.advance2 rfl hq (fun h => by cases h)) _ _)
  | tLdmia =>
    simp only [exec, execTLdmia]
    exact Ends.refuseIf (Ends.loadBlock (Quiet.refl _) rfl (Or.inl rfl) _ fun _ _ hq hm => Ends.finishLoad2 rfl _ _ hq hm)
  | tBeq | tBne | tBcs | tBcc | tBmi | tBpl | tBvs | tBvc | tBhi | tBls | tBge | tBlt | tBgt | tBle =>
    exact Ends.thumbCondBranch rfl _ _
  | tSwi =>
    simp only [exec, execTSwi]
    exact Ends.next (Effect.trap s .softwareInterrupt .softwareInterrupt (Quiet.refl s) rfl (by decide) rfl fun _ => rfl)
  | tB =>
    exact Ends.thumbJump rfl _
  | tBlSecond =>
    simp only [exec, execTBlSecond]
    exact Ends.next (Effect.jumpHalf rfl (Quiet.setReg s _ _) (by simp) fun _ _ => alignHalf_mod _)

end Sys2Proof.Machine
end

