-- ==== Sys2Proof/Laws/Pass.lean ====
section
/-! SUPPORT. Each family's shared operation with its condition passed and its operands allowed: what is left to do. -/

namespace Sys2Proof.Machine

variable {c : Cond} {s : State} {sf : Bool} {rn rd rm : Reg} {f : AluFn}

theorem aluImm_pass {o : Op2Imm} (hc : condPassed c s.cpsr.flags = true) :
    aluImm f c sf rn rd o s = s.aluWrite sf rd (f s.cpsr.flags (s.reg rn 8) (op2Imm s.cpsr.flags.c o)) :=
  conditional_pass hc

theorem aluShImm_pass {o : Op2ShImm} (hc : condPassed c s.cpsr.flags = true) :
    aluShImm f c sf rn rd o s = s.aluWrite sf rd (f s.cpsr.flags (s.reg rn 8) (s.op2ShImm o)) := conditional_pass hc

theorem aluShReg_pass {o : Op2ShReg} (hc : condPassed c s.cpsr.flags = true) (h : o.rs ≠ 15#4) :
    aluShReg f c sf rn rd o s = s.aluWrite sf rd (f s.cpsr.flags (s.reg rn 12) (s.op2ShReg o)) := by
  simp [aluShReg, conditional_pass hc, refuseIf_ne h]

theorem moveImm_pass {o : Op2Imm} (hc : condPassed c s.cpsr.flags = true) :
    moveImm f c sf rd o s = s.aluWrite sf rd (f s.cpsr.flags 0 (op2Imm s.cpsr.flags.c o)) := conditional_pass hc

theorem moveShImm_pass {o : Op2ShImm} (hc : condPassed c s.cpsr.flags = true) :
    moveShImm f c sf rd o s = s.aluWrite sf rd (f s.cpsr.flags 0 (s.op2ShImm o)) := conditional_pass hc

theorem moveShReg_pass {o : Op2ShReg} (hc : condPassed c s.cpsr.flags = true) (h : o.rs ≠ 15#4) :
    moveShReg f c sf rd o s = s.aluWrite sf rd (f s.cpsr.flags 0 (s.op2ShReg o)) := by
  simp [moveShReg, conditional_pass hc, refuseIf_ne h]

theorem compareImm_pass {o : Op2Imm} (hc : condPassed c s.cpsr.flags = true) :
    compareImm f c rn o s =
      .next ((s.setFlags (f s.cpsr.flags (s.reg rn 8) (op2Imm s.cpsr.flags.c o)).flags).advance 4) :=
  conditional_pass hc

theorem compareShImm_pass {o : Op2ShImm} (hc : condPassed c s.cpsr.flags = true) :
    compareShImm f c rn o s = .next ((s.setFlags (f s.cpsr.flags (s.reg rn 8) (s.op2ShImm o)).flags).advance 4) :=
  conditional_pass hc

theorem compareShReg_pass {o : Op2ShReg} (hc : condPassed c s.cpsr.flags = true) (h : o.rs ≠ 15#4) :
    compareShReg f c rn o s = .next ((s.setFlags (f s.cpsr.flags (s.reg rn 12) (s.op2ShReg o)).flags).advance 4) := by
  simp [compareShReg, conditional_pass hc, refuseIf_ne h]

theorem checkWriteBack_allowed {wb : Bool} {k : Result} (h : wb = true → rn ≠ rd ∧ rn ≠ 15#4) :
    checkWriteBack wb rn rd k = k := by
  cases wb
  · rfl
  · obtain ⟨h1, h2⟩ := h rfl
    simp [checkWriteBack, refuseIf_ne h1, refuseIf_ne h2]

theorem immPre_pass {op : Transfer} {up wb : Bool} {off : BitVec 12} (hc : condPassed c s.cpsr.flags = true)
    (h : wb = true → rn ≠ rd ∧ rn ≠ 15#4) :
    immPre op c up wb rn rd off s = op s rn rd (preIndexed up wb (s.reg rn 8) (zext off)) :=
  (conditional_pass hc).trans (checkWriteBack_allowed h)

theorem immPost_pass {op : Transfer} {up : Bool} {off : BitVec 12} (hc : condPassed c s.cpsr.flags = true)
    (h : rn ≠ rd ∧ rn ≠ 15#4) :
    immPost op c up rn rd off s = op s rn rd (postIndexed up (s.reg rn 8) (zext off)) :=
  (conditional_pass hc).trans (checkWriteBack_allowed fun _ => h)

theorem regPre_pass {op : Transfer} {up wb : Bool} {o : Op2ShImm} (hc : condPassed c s.cpsr.flags = true)
    (hm : o.rm ≠ 15#4) (h : wb = true → rn ≠ rd ∧ rn ≠ 15#4) :
    regPre op c up wb rn rd o s = op s rn rd (preIndexed up wb (s.reg rn 8) (s.op2ShImm o).value) := by
  simp [regPre, conditional_pass hc, refuseIf_ne hm, checkWriteBack_allowed h]

theorem regPost_pass {op : Transfer} {up : Bool} {o : Op2ShImm} (hc : condPassed c s.cpsr.flags = true)
    (hm : o.rm ≠ 15#4) (h : rn ≠ rd ∧ rn ≠ 15#4) :
    regPost op c up rn rd o s = op s rn rd (postIndexed up (s.reg rn 8) (s.op2ShImm o).value) := by
  simp [regPost, conditional_pass hc, refuseIf_ne hm, checkWriteBack_allowed fun _ => h]

theorem halfReg_pass {op : Transfer} {ix : HalfIndex} {up : Bool} (hc : condPassed c s.cpsr.flags = true)
    (hm : rm ≠ 15#4) (h : ix.writesBack = true → rn ≠ rd ∧ rn ≠ 15#4) :
    halfReg op c ix up rn rd rm s = op s rn rd (halfIndexed ix up (s.reg rn 8) (s.reg rm 8)) := by
  simp [halfReg, conditional_pass hc, refuseIf_ne hm, checkWriteBack_allowed h]

theorem halfImm_pass {op : Transfer} {ix : HalfIndex} {up : Bool} {off : BitVec 8}
    (hc : condPassed c s.cpsr.flags = true) (h : ix.writesBack = true → rn ≠ rd ∧ rn ≠ 15#4) :
    halfImm op c ix up rn rd off s = op s rn rd (halfIndexed ix up (s.reg rn 8) (zext off)) :=
  (conditional_pass hc).trans (checkWriteBack_allowed h)

theorem checkBlock_allowed {list : BitVec 16} {k : Result} (hn : rn ≠ 15#4) (hl : list ≠ 0#16) :
    checkBlock rn list k = k := by simp [checkBlock, refuseIf_ne hn, refuseIf_ne hl]

theorem coprocessor_present {p : BitVec 4} {act : State → Result} (hc : condPassed c s.cpsr.flags = true)
    (hp : p ∈ s.platform.coprocs) : coprocessor c p s act = act s := by
  simp [coprocessor, conditional_pass hc, hp]

theorem coprocessor_absent {p : BitVec 4} {act : State → Result} (hc : condPassed c s.cpsr.flags = true)
    (hp : p ∉ s.platform.coprocs) : coprocessor c p s act = .next (s.enter .undefined) := by
  simp [coprocessor, conditional_pass hc, hp]

/-- A load of RAM: the value, the write-back, the next instruction or the PC. -/
theorem State.load_ram {k : LoadKind} {user : Bool} {size : Word} {a : Addressing}
    (h : ReachesRam s .read user a.ea (k.address a.ea) (k.width a.ea)) :
    s.load k user size rn rd a =
      .next
        (if rd = 15#4 then
          (s.writeBack rn a).branchTo (alignWord (k.deliver a.ea (s.mem.read (k.address a.ea) (k.width a.ea))))
         else
          ((s.writeBack rn a).setReg rd (k.deliver a.ea (s.mem.read (k.address a.ea) (k.width a.ea)))).advance
            size) := by
  simp only [State.load, State.busRead_ram h]
  split <;> rfl

/-- A store to RAM. -/
theorem State.store_ram {k : StoreKind} {user : Bool} {size : Word} {a : Addressing}
    (h : ReachesRam s .write user a.ea (k.address a.ea) k.width) :
    s.store k user size rn rd a =
      .next (((s.put (k.address a.ea) k.width (s.reg rd 12)).writeBack rn a).advance size) := by
  simp only [State.store, State.busWrite_ram h]

end Sys2Proof.Machine
end

