-- ==== Sys2Proof/Laws/PerInstr.lean ====
section
/-! SUPPORT. One lemma per instruction: where its code keeps the condition. -/

namespace Sys2Proof.Laws

open Sys2Proof Sys2Proof.Machine

/-- R45, R47, R48: the code of an ARM instruction is a word whose bits 31-28 are its condition's code; the code of a THUMB
instruction is a halfword, without a condition. -/
def Encoded.Statement (i : Instr) : Prop :=
  match armCond i with
  | some c => ∃ w : Word, encode i = .arm w ∧ w.extractLsb' 28 4 = c.code
  | none => ∃ h : Half, encode i = .thumb h

/-- Bits 31-28 of a word assembled from a condition and a part below it. -/
theorem condition_field (c : Cond) (rest : Word) (h : rest.extractLsb' 28 4 = 0#4) :
    (place 32 28 c.code ||| rest).extractLsb' 28 4 = c.code := by
  rw [BitVec.extractLsb'_or, h, slice_place_inner _ (by omega) (by omega) (by omega)]
  apply BitVec.eq_of_getLsbD_eq; intro i hi; simp [hi]

theorem armWord_condition (c : Cond) (top : BitVec 8) (a b : BitVec 4) (low : BitVec 12) :
    (armWord c top a b low).extractLsb' 28 4 = c.code := by
  simp only [armWord, BitVec.or_assoc]
  apply condition_field
  simp [BitVec.extractLsb'_or, slice_place_off]

theorem Encoded.b (c : Cond) (off : BitVec 24) : Encoded.Statement (.b c off) := by
  refine ⟨_, rfl, ?_⟩
  simp only [BitVec.or_assoc]
  exact condition_field _ _ (by simp [BitVec.extractLsb'_or, slice_place_off])

theorem Encoded.bl (c : Cond) (off : BitVec 24) : Encoded.Statement (.bl c off) := by
  refine ⟨_, rfl, ?_⟩
  simp only [BitVec.or_assoc]
  exact condition_field _ _ (by simp [BitVec.extractLsb'_or, slice_place_off])

theorem Encoded.bx (c : Cond) (rn : Reg) : Encoded.Statement (.bx c rn) := by
  refine ⟨_, rfl, ?_⟩
  simp only [BitVec.or_assoc]
  exact condition_field _ _ (by simp [BitVec.extractLsb'_or, slice_place_off])

theorem Encoded.swi (c : Cond) (comment : BitVec 24) : Encoded.Statement (.swi c comment) := by
  refine ⟨_, rfl, ?_⟩
  simp only [BitVec.or_assoc]
  exact condition_field _ _ (by simp [BitVec.extractLsb'_or, slice_place_off])

theorem Encoded.undefined (c : Cond) (hi : BitVec 20) (lo : BitVec 4) : Encoded.Statement (.undefined c hi lo) := by
  refine ⟨_, rfl, ?_⟩
  simp only [BitVec.or_assoc]
  exact condition_field _ _ (by simp [BitVec.extractLsb'_or, slice_place_off])

theorem Encoded.andImm (c : Cond) (sf : Bool) (rn rd : Reg) (o : Op2Imm) : Encoded.Statement (.andImm c sf rn rd o) :=
  ⟨_, rfl, armWord_condition ..⟩

theorem Encoded.andShImm (c : Cond) (sf : Bool) (rn rd : Reg) (o : Op2ShImm) :
    Encoded.Statement (.andShImm c sf rn rd o) :=
  ⟨_, rfl, armWord_condition ..⟩

theorem Encoded.andShReg (c : Cond) (sf : Bool) (rn rd : Reg) (o : Op2ShReg) :
    Encoded.Statement (.andShReg c sf rn rd o) :=
  ⟨_, rfl, armWord_condition ..⟩

theorem Encoded.eorImm (c : Cond) (sf : Bool) (rn rd : Reg) (o : Op2Imm) : Encoded.Statement (.eorImm c sf rn rd o) :=
  ⟨_, rfl, armWord_condition ..⟩

theorem Encoded.eorShImm (c : Cond) (sf : Bool) (rn rd : Reg) (o : Op2ShImm) :
    Encoded.Statement (.eorShImm c sf rn rd o) :=
  ⟨_, rfl, armWord_condition ..⟩

theorem Encoded.eorShReg (c : Cond) (sf : Bool) (rn rd : Reg) (o : Op2ShReg) :
    Encoded.Statement (.eorShReg c sf rn rd o) :=
  ⟨_, rfl, armWord_condition ..⟩

theorem Encoded.subImm (c : Cond) (sf : Bool) (rn rd : Reg) (o : Op2Imm) : Encoded.Statement (.subImm c sf rn rd o) :=
  ⟨_, rfl, armWord_condition ..⟩

theorem Encoded.subShImm (c : Cond) (sf : Bool) (rn rd : Reg) (o : Op2ShImm) :
    Encoded.Statement (.subShImm c sf rn rd o) :=
  ⟨_, rfl, armWord_condition ..⟩

theorem Encoded.subShReg (c : Cond) (sf : Bool) (rn rd : Reg) (o : Op2ShReg) :
    Encoded.Statement (.subShReg c sf rn rd o) :=
  ⟨_, rfl, armWord_condition ..⟩

theorem Encoded.rsbImm (c : Cond) (sf : Bool) (rn rd : Reg) (o : Op2Imm) : Encoded.Statement (.rsbImm c sf rn rd o) :=
  ⟨_, rfl, armWord_condition ..⟩

theorem Encoded.rsbShImm (c : Cond) (sf : Bool) (rn rd : Reg) (o : Op2ShImm) :
    Encoded.Statement (.rsbShImm c sf rn rd o) :=
  ⟨_, rfl, armWord_condition ..⟩

theorem Encoded.rsbShReg (c : Cond) (sf : Bool) (rn rd : Reg) (o : Op2ShReg) :
    Encoded.Statement (.rsbShReg c sf rn rd o) :=
  ⟨_, rfl, armWord_condition ..⟩

theorem Encoded.addImm (c : Cond) (sf : Bool) (rn rd : Reg) (o : Op2Imm) : Encoded.Statement (.addImm c sf rn rd o) :=
  ⟨_, rfl, armWord_condition ..⟩

theorem Encoded.addShImm (c : Cond) (sf : Bool) (rn rd : Reg) (o : Op2ShImm) :
    Encoded.Statement (.addShImm c sf rn rd o) :=
  ⟨_, rfl, armWord_condition ..⟩

theorem Encoded.addShReg (c : Cond) (sf : Bool) (rn rd : Reg) (o : Op2ShReg) :
    Encoded.Statement (.addShReg c sf rn rd o) :=
  ⟨_, rfl, armWord_condition ..⟩

theorem Encoded.adcImm (c : Cond) (sf : Bool) (rn rd : Reg) (o : Op2Imm) : Encoded.Statement (.adcImm c sf rn rd o) :=
  ⟨_, rfl, armWord_condition ..⟩

theorem Encoded.adcShImm (c : Cond) (sf : Bool) (rn rd : Reg) (o : Op2ShImm) :
    Encoded.Statement (.adcShImm c sf rn rd o) :=
  ⟨_, rfl, armWord_condition ..⟩

theorem Encoded.adcShReg (c : Cond) (sf : Bool) (rn rd : Reg) (o : Op2ShReg) :
    Encoded.Statement (.adcShReg c sf rn rd o) :=
  ⟨_, rfl, armWord_condition ..⟩

theorem Encoded.sbcImm (c : Cond) (sf : Bool) (rn rd : Reg) (o : Op2Imm) : Encoded.Statement (.sbcImm c sf rn rd o) :=
  ⟨_, rfl, armWord_condition ..⟩

theorem Encoded.sbcShImm (c : Cond) (sf : Bool) (rn rd : Reg) (o : Op2ShImm) :
    Encoded.Statement (.sbcShImm c sf rn rd o) :=
  ⟨_, rfl, armWord_condition ..⟩

theorem Encoded.sbcShReg (c : Cond) (sf : Bool) (rn rd : Reg) (o : Op2ShReg) :
    Encoded.Statement (.sbcShReg c sf rn rd o) :=
  ⟨_, rfl, armWord_condition ..⟩

theorem Encoded.rscImm (c : Cond) (sf : Bool) (rn rd : Reg) (o : Op2Imm) : Encoded.Statement (.rscImm c sf rn rd o) :=
  ⟨_, rfl, armWord_condition ..⟩

theorem Encoded.rscShImm (c : Cond) (sf : Bool) (rn rd : Reg) (o : Op2ShImm) :
    Encoded.Statement (.rscShImm c sf rn rd o) :=
  ⟨_, rfl, armWord_condition ..⟩

theorem Encoded.rscShReg (c : Cond) (sf : Bool) (rn rd : Reg) (o : Op2ShReg) :
    Encoded.Statement (.rscShReg c sf rn rd o) :=
  ⟨_, rfl, armWord_condition ..⟩

theorem Encoded.tstImm (c : Cond) (rn : Reg) (o : Op2Imm) : Encoded.Statement (.tstImm c rn o) :=
  ⟨_, rfl, armWord_condition ..⟩

theorem Encoded.tstShImm (c : Cond) (rn : Reg) (o : Op2ShImm) : Encoded.Statement (.tstShImm c rn o) :=
  ⟨_, rfl, armWord_condition ..⟩

theorem Encoded.tstShReg (c : Cond) (rn : Reg) (o : Op2ShReg) : Encoded.Statement (.tstShReg c rn o) :=
  ⟨_, rfl, armWord_condition ..⟩

theorem Encoded.teqImm (c : Cond) (rn : Reg) (o : Op2Imm) : Encoded.Statement (.teqImm c rn o) :=
  ⟨_, rfl, armWord_condition ..⟩

theorem Encoded.teqShImm (c : Cond) (rn : Reg) (o : Op2ShImm) : Encoded.Statement (.teqShImm c rn o) :=
  ⟨_, rfl, armWord_condition ..⟩

theorem Encoded.teqShReg (c : Cond) (rn : Reg) (o : Op2ShReg) : Encoded.Statement (.teqShReg c rn o) :=
  ⟨_, rfl, armWord_condition ..⟩

theorem Encoded.cmpImm (c : Cond) (rn : Reg) (o : Op2Imm) : Encoded.Statement (.cmpImm c rn o) :=
  ⟨_, rfl, armWord_condition ..⟩

theorem Encoded.cmpShImm (c : Cond) (rn : Reg) (o : Op2ShImm) : Encoded.Statement (.cmpShImm c rn o) :=
  ⟨_, rfl, armWord_condition ..⟩

theorem Encoded.cmpShReg (c : Cond) (rn : Reg) (o : Op2ShReg) : Encoded.Statement (.cmpShReg c rn o) :=
  ⟨_, rfl, armWord_condition ..⟩

theorem Encoded.cmnImm (c : Cond) (rn : Reg) (o : Op2Imm) : Encoded.Statement (.cmnImm c rn o) :=
  ⟨_, rfl, armWord_condition ..⟩

theorem Encoded.cmnShImm (c : Cond) (rn : Reg) (o : Op2ShImm) : Encoded.Statement (.cmnShImm c rn o) :=
  ⟨_, rfl, armWord_condition ..⟩

theorem Encoded.cmnShReg (c : Cond) (rn : Reg) (o : Op2ShReg) : Encoded.Statement (.cmnShReg c rn o) :=
  ⟨_, rfl, armWord_condition ..⟩

theorem Encoded.orrImm (c : Cond) (sf : Bool) (rn rd : Reg) (o : Op2Imm) : Encoded.Statement (.orrImm c sf rn rd o) :=
  ⟨_, rfl, armWord_condition ..⟩

theorem Encoded.orrShImm (c : Cond) (sf : Bool) (rn rd : Reg) (o : Op2ShImm) :
    Encoded.Statement (.orrShImm c sf rn rd o) :=
  ⟨_, rfl, armWord_condition ..⟩

theorem Encoded.orrShReg (c : Cond) (sf : Bool) (rn rd : Reg) (o : Op2ShReg) :
    Encoded.Statement (.orrShReg c sf rn rd o) :=
  ⟨_, rfl, armWord_condition ..⟩

theorem Encoded.movImm (c : Cond) (sf : Bool) (rd : Reg) (o : Op2Imm) : Encoded.Statement (.movImm c sf rd o) :=
  ⟨_, rfl, armWord_condition ..⟩

theorem Encoded.movShImm (c : Cond) (sf : Bool) (rd : Reg) (o : Op2ShImm) : Encoded.Statement (.movShImm c sf rd o) :=
  ⟨_, rfl, armWord_condition ..⟩

theorem Encoded.movShReg (c : Cond) (sf : Bool) (rd : Reg) (o : Op2ShReg) : Encoded.Statement (.movShReg c sf rd o) :=
  ⟨_, rfl, armWord_condition ..⟩

theorem Encoded.bicImm (c : Cond) (sf : Bool) (rn rd : Reg) (o : Op2Imm) : Encoded.Statement (.bicImm c sf rn rd o) :=
  ⟨_, rfl, armWord_condition ..⟩

theorem Encoded.bicShImm (c : Cond) (sf : Bool) (rn rd : Reg) (o : Op2ShImm) :
    Encoded.Statement (.bicShImm c sf rn rd o) :=
  ⟨_, rfl, armWord_condition ..⟩

theorem Encoded.bicShReg (c : Cond) (sf : Bool) (rn rd : Reg) (o : Op2ShReg) :
    Encoded.Statement (.bicShReg c sf rn rd o) :=
  ⟨_, rfl, armWord_condition ..⟩

theorem Encoded.mvnImm (c : Cond) (sf : Bool) (rd : Reg) (o : Op2Imm) : Encoded.Statement (.mvnImm c sf rd o) :=
  ⟨_, rfl, armWord_condition ..⟩

theorem Encoded.mvnShImm (c : Cond) (sf : Bool) (rd : Reg) (o : Op2ShImm) : Encoded.Statement (.mvnShImm c sf rd o) :=
  ⟨_, rfl, armWord_condition ..⟩

theorem Encoded.mvnShReg (c : Cond) (sf : Bool) (rd : Reg) (o : Op2ShReg) : Encoded.Statement (.mvnShReg c sf rd o) :=
  ⟨_, rfl, armWord_condition ..⟩

theorem Encoded.mul (c : Cond) (sf : Bool) (rd rs rm : Reg) : Encoded.Statement (.mul c sf rd rs rm) :=
  ⟨_, rfl, armWord_condition ..⟩

theorem Encoded.mla (c : Cond) (sf : Bool) (rd rn rs rm : Reg) : Encoded.Statement (.mla c sf rd rn rs rm) :=
  ⟨_, rfl, armWord_condition ..⟩

theorem Encoded.umull (c : Cond) (sf : Bool) (rdHi rdLo rs rm : Reg) :
    Encoded.Statement (.umull c sf rdHi rdLo rs rm) :=
  ⟨_, rfl, armWord_condition ..⟩

theorem Encoded.umlal (c : Cond) (sf : Bool) (rdHi rdLo rs rm : Reg) :
    Encoded.Statement (.umlal c sf rdHi rdLo rs rm) :=
  ⟨_, rfl, armWord_condition ..⟩

theorem Encoded.smull (c : Cond) (sf : Bool) (rdHi rdLo rs rm : Reg) :
    Encoded.Statement (.smull c sf rdHi rdLo rs rm) :=
  ⟨_, rfl, armWord_condition ..⟩

theorem Encoded.smlal (c : Cond) (sf : Bool) (rdHi rdLo rs rm : Reg) :
    Encoded.Statement (.smlal c sf rdHi rdLo rs rm) :=
  ⟨_, rfl, armWord_condition ..⟩

theorem Encoded.mrs (c : Cond) (spsr : Bool) (rd : Reg) : Encoded.Statement (.mrs c spsr rd) :=
  ⟨_, rfl, armWord_condition ..⟩

theorem Encoded.msrReg (c : Cond) (spsr : Bool) (fields : FieldMask) (rm : Reg) :
    Encoded.Statement (.msrReg c spsr fields rm) :=
  ⟨_, rfl, armWord_condition ..⟩

theorem Encoded.msrImm (c : Cond) (spsr : Bool) (fields : FieldMask) (o : Op2Imm) :
    Encoded.Statement (.msrImm c spsr fields o) :=
  ⟨_, rfl, armWord_condition ..⟩

theorem Encoded.ldrImmPre (c : Cond) (up wb : Bool) (rn rd : Reg) (off : BitVec 12) :
    Encoded.Statement (.ldrImmPre c up wb rn rd off) :=
  ⟨_, rfl, armWord_condition ..⟩

theorem Encoded.ldrImmPost (c : Cond) (up : Bool) (rn rd : Reg) (off : BitVec 12) :
    Encoded.Statement (.ldrImmPost c up rn rd off) :=
  ⟨_, rfl, armWord_condition ..⟩

theorem Encoded.ldrRegPre (c : Cond) (up wb : Bool) (rn rd : Reg) (o : Op2ShImm) :
    Encoded.Statement (.ldrRegPre c up wb rn rd o) :=
  ⟨_, rfl, armWord_condition ..⟩

theorem Encoded.ldrRegPost (c : Cond) (up : Bool) (rn rd : Reg) (o : Op2ShImm) :
    Encoded.Statement (.ldrRegPost c up rn rd o) :=
  ⟨_, rfl, armWord_condition ..⟩

theorem Encoded.ldrbImmPre (c : Cond) (up wb : Bool) (rn rd : Reg) (off : BitVec 12) :
    Encoded.Statement (.ldrbImmPre c up wb rn rd off) :=
  ⟨_, rfl, armWord_condition ..⟩

theorem Encoded.ldrbImmPost (c : Cond) (up : Bool) (rn rd : Reg) (off : BitVec 12) :
    Encoded.Statement (.ldrbImmPost c up rn rd off) :=
  ⟨_, rfl, armWord_condition ..⟩

theorem Encoded.ldrbRegPre (c : Cond) (up wb : Bool) (rn rd : Reg) (o : Op2ShImm) :
    Encoded.Statement (.ldrbRegPre c up wb rn rd o) :=
  ⟨_, rfl, armWord_condition ..⟩

theorem Encoded.ldrbRegPost (c : Cond) (up : Bool) (rn rd : Reg) (o : Op2ShImm) :
    Encoded.Statement (.ldrbRegPost c up rn rd o) :=
  ⟨_, rfl, armWord_condition ..⟩

theorem Encoded.strImmPre (c : Cond) (up wb : Bool) (rn rd : Reg) (off : BitVec 12) :
    Encoded.Statement (.strImmPre c up wb rn rd off) :=
  ⟨_, rfl, armWord_condition ..⟩

theorem Encoded.strImmPost (c : Cond) (up : Bool) (rn rd : Reg) (off : BitVec 12) :
    Encoded.Statement (.strImmPost c up rn rd off) :=
  ⟨_, rfl, armWord_condition ..⟩

theorem Encoded.strRegPre (c : Cond) (up wb : Bool) (rn rd : Reg) (o : Op2ShImm) :
    Encoded.Statement (.strRegPre c up wb rn rd o) :=
  ⟨_, rfl, armWord_condition ..⟩

theorem Encoded.strRegPost (c : Cond) (up : Bool) (rn rd : Reg) (o : Op2ShImm) :
    Encoded.Statement (.strRegPost c up rn rd o) :=
  ⟨_, rfl, armWord_condition ..⟩

theorem Encoded.strbImmPre (c : Cond) (up wb : Bool) (rn rd : Reg) (off : BitVec 12) :
    Encoded.Statement (.strbImmPre c up wb rn rd off) :=
  ⟨_, rfl, armWord_condition ..⟩

theorem Encoded.strbImmPost (c : Cond) (up : Bool) (rn rd : Reg) (off : BitVec 12) :
    Encoded.Statement (.strbImmPost c up rn rd off) :=
  ⟨_, rfl, armWord_condition ..⟩

theorem Encoded.strbRegPre (c : Cond) (up wb : Bool) (rn rd : Reg) (o : Op2ShImm) :
    Encoded.Statement (.strbRegPre c up wb rn rd o) :=
  ⟨_, rfl, armWord_condition ..⟩

theorem Encoded.strbRegPost (c : Cond) (up : Bool) (rn rd : Reg) (o : Op2ShImm) :
    Encoded.Statement (.strbRegPost c up rn rd o) :=
  ⟨_, rfl, armWord_condition ..⟩

theorem Encoded.ldrtImm (c : Cond) (up : Bool) (rn rd : Reg) (off : BitVec 12) :
    Encoded.Statement (.ldrtImm c up rn rd off) :=
  ⟨_, rfl, armWord_condition ..⟩

theorem Encoded.ldrtReg (c : Cond) (up : Bool) (rn rd : Reg) (o : Op2ShImm) :
    Encoded.Statement (.ldrtReg c up rn rd o) :=
  ⟨_, rfl, armWord_condition ..⟩

theorem Encoded.ldrbtImm (c : Cond) (up : Bool) (rn rd : Reg) (off : BitVec 12) :
    Encoded.Statement (.ldrbtImm c up rn rd off) :=
  ⟨_, rfl, armWord_condition ..⟩

theorem Encoded.ldrbtReg (c : Cond) (up : Bool) (rn rd : Reg) (o : Op2ShImm) :
    Encoded.Statement (.ldrbtReg c up rn rd o) :=
  ⟨_, rfl, armWord_condition ..⟩

theorem Encoded.strtImm (c : Cond) (up : Bool) (rn rd : Reg) (off : BitVec 12) :
    Encoded.Statement (.strtImm c up rn rd off) :=
  ⟨_, rfl, armWord_condition ..⟩

theorem Encoded.strtReg (c : Cond) (up : Bool) (rn rd : Reg) (o : Op2ShImm) :
    Encoded.Statement (.strtReg c up rn rd o) :=
  ⟨_, rfl, armWord_condition ..⟩

theorem Encoded.strbtImm (c : Cond) (up : Bool) (rn rd : Reg) (off : BitVec 12) :
    Encoded.Statement (.strbtImm c up rn rd off) :=
  ⟨_, rfl, armWord_condition ..⟩

theorem Encoded.strbtReg (c : Cond) (up : Bool) (rn rd : Reg) (o : Op2ShImm) :
    Encoded.Statement (.strbtReg c up rn rd o) :=
  ⟨_, rfl, armWord_condition ..⟩

theorem Encoded.strhReg (c : Cond) (ix : HalfIndex) (up : Bool) (rn rd rm : Reg) :
    Encoded.Statement (.strhReg c ix up rn rd rm) :=
  ⟨_, rfl, armWord_condition ..⟩

theorem Encoded.strhImm (c : Cond) (ix : HalfIndex) (up : Bool) (rn rd : Reg) (off : BitVec 8) :
    Encoded.Statement (.strhImm c ix up rn rd off) :=
  ⟨_, rfl, armWord_condition ..⟩

theorem Encoded.ldrhReg (c : Cond) (ix : HalfIndex) (up : Bool) (rn rd rm : Reg) :
    Encoded.Statement (.ldrhReg c ix up rn rd rm) :=
  ⟨_, rfl, armWord_condition ..⟩

theorem Encoded.ldrhImm (c : Cond) (ix : HalfIndex) (up : Bool) (rn rd : Reg) (off : BitVec 8) :
    Encoded.Statement (.ldrhImm c ix up rn rd off) :=
  ⟨_, rfl, armWord_condition ..⟩

theorem Encoded.ldrsbReg (c : Cond) (ix : HalfIndex) (up : Bool) (rn rd rm : Reg) :
    Encoded.Statement (.ldrsbReg c ix up rn rd rm) :=
  ⟨_, rfl, armWord_condition ..⟩

theorem Encoded.ldrsbImm (c : Cond) (ix : HalfIndex) (up : Bool) (rn rd : Reg) (off : BitVec 8) :
    Encoded.Statement (.ldrsbImm c ix up rn rd off) :=
  ⟨_, rfl, armWord_condition ..⟩

theorem Encoded.ldrshReg (c : Cond) (ix : HalfIndex) (up : Bool) (rn rd rm : Reg) :
    Encoded.Statement (.ldrshReg c ix up rn rd rm) :=
  ⟨_, rfl, armWord_condition ..⟩

theorem Encoded.ldrshImm (c : Cond) (ix : HalfIndex) (up : Bool) (rn rd : Reg) (off : BitVec 8) :
    Encoded.Statement (.ldrshImm c ix up rn rd off) :=
  ⟨_, rfl, armWord_condition ..⟩

theorem Encoded.stm (c : Cond) (pre up wb : Bool) (rn : Reg) (list : BitVec 16) : Encoded.Statement (.stm c pre up wb rn list) := by
  refine ⟨_, rfl, ?_⟩
  simp only [BitVec.or_assoc]
  exact condition_field _ _ (by simp [BitVec.extractLsb'_or, slice_place_off])

theorem Encoded.ldm (c : Cond) (pre up wb : Bool) (rn : Reg) (list : BitVec 16) : Encoded.Statement (.ldm c pre up wb rn list) := by
  refine ⟨_, rfl, ?_⟩
  simp only [BitVec.or_assoc]
  exact condition_field _ _ (by simp [BitVec.extractLsb'_or, slice_place_off])

theorem Encoded.ldmPcS (c : Cond) (pre up wb : Bool) (rn : Reg) (list : BitVec 15) : Encoded.Statement (.ldmPcS c pre up wb rn list) := by
  refine ⟨_, rfl, ?_⟩
  simp only [BitVec.or_assoc]
  exact condition_field _ _ (by simp [BitVec.extractLsb'_or, slice_place_off])

theorem Encoded.stmS (c : Cond) (pre up wb : Bool) (rn : Reg) (list : BitVec 16) : Encoded.Statement (.stmS c pre up wb rn list) := by
  refine ⟨_, rfl, ?_⟩
  simp only [BitVec.or_assoc]
  exact condition_field _ _ (by simp [BitVec.extractLsb'_or, slice_place_off])

theorem Encoded.ldmUserS (c : Cond) (pre up wb : Bool) (rn : Reg) (list : BitVec 15) : Encoded.Statement (.ldmUserS c pre up wb rn list) := by
  refine ⟨_, rfl, ?_⟩
  simp only [BitVec.or_assoc]
  exact condition_field _ _ (by simp [BitVec.extractLsb'_or, slice_place_off])

theorem Encoded.swp (c : Cond) (rn rd rm : Reg) : Encoded.Statement (.swp c rn rd rm) := ⟨_, rfl, armWord_condition ..⟩

theorem Encoded.swpb (c : Cond) (rn rd rm : Reg) : Encoded.Statement (.swpb c rn rd rm) :=
  ⟨_, rfl, armWord_condition ..⟩

theorem Encoded.mrc (c : Cond) (p : BitVec 4) (op : CoprocRegOp) (rd : Reg) : Encoded.Statement (.mrc c p op rd) :=
  ⟨_, rfl, armWord_condition ..⟩

theorem Encoded.mcr (c : Cond) (p : BitVec 4) (op : CoprocRegOp) (rd : Reg) : Encoded.Statement (.mcr c p op rd) :=
  ⟨_, rfl, armWord_condition ..⟩

theorem Encoded.cdp (c : Cond) (p cpopc cd cn cm : BitVec 4) (cp : BitVec 3) :
    Encoded.Statement (.cdp c p cpopc cd cn cm cp) :=
  ⟨_, rfl, armWord_condition ..⟩

theorem Encoded.ldc (c : Cond) (pre up long wb : Bool) (rn : Reg) (cd p : BitVec 4) (off : BitVec 8) :
    Encoded.Statement (.ldc c pre up long wb rn cd p off) :=
  ⟨_, rfl, armWord_condition ..⟩

theorem Encoded.stc (c : Cond) (pre up long wb : Bool) (rn : Reg) (cd p : BitVec 4) (off : BitVec 8) :
    Encoded.Statement (.stc c pre up long wb rn cd p off) :=
  ⟨_, rfl, armWord_condition ..⟩

theorem Encoded.tLslImm (k : BitVec 5) (rs rd : LoReg) : Encoded.Statement (.tLslImm k rs rd) := ⟨_, rfl⟩

theorem Encoded.tLsrImm (k : BitVec 5) (rs rd : LoReg) : Encoded.Statement (.tLsrImm k rs rd) := ⟨_, rfl⟩

theorem Encoded.tAsrImm (k : BitVec 5) (rs rd : LoReg) : Encoded.Statement (.tAsrImm k rs rd) := ⟨_, rfl⟩

theorem Encoded.tAddReg (rn rs rd : LoReg) : Encoded.Statement (.tAddReg rn rs rd) := ⟨_, rfl⟩

theorem Encoded.tSubReg (rn rs rd : LoReg) : Encoded.Statement (.tSubReg rn rs rd) := ⟨_, rfl⟩

theorem Encoded.tAddImm3 (nn : BitVec 3) (rs rd : LoReg) : Encoded.Statement (.tAddImm3 nn rs rd) := ⟨_, rfl⟩

theorem Encoded.tSubImm3 (nn : BitVec 3) (rs rd : LoReg) : Encoded.Statement (.tSubImm3 nn rs rd) := ⟨_, rfl⟩

theorem Encoded.tMovImm8 (rd : LoReg) (nn : BitVec 8) : Encoded.Statement (.tMovImm8 rd nn) := ⟨_, rfl⟩

theorem Encoded.tCmpImm8 (rd : LoReg) (nn : BitVec 8) : Encoded.Statement (.tCmpImm8 rd nn) := ⟨_, rfl⟩

theorem Encoded.tAddImm8 (rd : LoReg) (nn : BitVec 8) : Encoded.Statement (.tAddImm8 rd nn) := ⟨_, rfl⟩

theorem Encoded.tSubImm8 (rd : LoReg) (nn : BitVec 8) : Encoded.Statement (.tSubImm8 rd nn) := ⟨_, rfl⟩

theorem Encoded.tAnd (rs rd : LoReg) : Encoded.Statement (.tAnd rs rd) := ⟨_, rfl⟩

theorem Encoded.tEor (rs rd : LoReg) : Encoded.Statement (.tEor rs rd) := ⟨_, rfl⟩

theorem Encoded.tLslReg (rs rd : LoReg) : Encoded.Statement (.tLslReg rs rd) := ⟨_, rfl⟩

theorem Encoded.tLsrReg (rs rd : LoReg) : Encoded.Statement (.tLsrReg rs rd) := ⟨_, rfl⟩

theorem Encoded.tAsrReg (rs rd : LoReg) : Encoded.Statement (.tAsrReg rs rd) := ⟨_, rfl⟩

theorem Encoded.tAdc (rs rd : LoReg) : Encoded.Statement (.tAdc rs rd) := ⟨_, rfl⟩

theorem Encoded.tSbc (rs rd : LoReg) : Encoded.Statement (.tSbc rs rd) := ⟨_, rfl⟩

theorem Encoded.tRor (rs rd : LoReg) : Encoded.Statement (.tRor rs rd) := ⟨_, rfl⟩

theorem Encoded.tTst (rs rd : LoReg) : Encoded.Statement (.tTst rs rd) := ⟨_, rfl⟩

theorem Encoded.tNeg (rs rd : LoReg) : Encoded.Statement (.tNeg rs rd) := ⟨_, rfl⟩

theorem Encoded.tCmpReg (rs rd : LoReg) : Encoded.Statement (.tCmpReg rs rd) := ⟨_, rfl⟩

theorem Encoded.tCmn (rs rd : LoReg) : Encoded.Statement (.tCmn rs rd) := ⟨_, rfl⟩

theorem Encoded.tOrr (rs rd : LoReg) : Encoded.Statement (.tOrr rs rd) := ⟨_, rfl⟩

theorem Encoded.tMul (rs rd : LoReg) : Encoded.Statement (.tMul rs rd) := ⟨_, rfl⟩

theorem Encoded.tBic (rs rd : LoReg) : Encoded.Statement (.tBic rs rd) := ⟨_, rfl⟩

theorem Encoded.tMvn (rs rd : LoReg) : Encoded.Statement (.tMvn rs rd) := ⟨_, rfl⟩

theorem Encoded.tAddHiDst (rs : Reg) (rd : LoReg) : Encoded.Statement (.tAddHiDst rs rd) := ⟨_, rfl⟩

theorem Encoded.tAddHiSrc (rs rd : LoReg) : Encoded.Statement (.tAddHiSrc rs rd) := ⟨_, rfl⟩

theorem Encoded.tCmpHiDst (rs : Reg) (rd : LoReg) : Encoded.Statement (.tCmpHiDst rs rd) := ⟨_, rfl⟩

theorem Encoded.tCmpHiSrc (rs rd : LoReg) : Encoded.Statement (.tCmpHiSrc rs rd) := ⟨_, rfl⟩

theorem Encoded.tMovHiDst (rs : Reg) (rd : LoReg) : Encoded.Statement (.tMovHiDst rs rd) := ⟨_, rfl⟩

theorem Encoded.tMovHiSrc (rs rd : LoReg) : Encoded.Statement (.tMovHiSrc rs rd) := ⟨_, rfl⟩

theorem Encoded.tBx (rs : Reg) : Encoded.Statement (.tBx rs) := ⟨_, rfl⟩

theorem Encoded.tLdrPc (rd : LoReg) (nn : BitVec 8) : Encoded.Statement (.tLdrPc rd nn) := ⟨_, rfl⟩

theorem Encoded.tStrReg (ro rb rd : LoReg) : Encoded.Statement (.tStrReg ro rb rd) := ⟨_, rfl⟩

theorem Encoded.tStrbReg (ro rb rd : LoReg) : Encoded.Statement (.tStrbReg ro rb rd) := ⟨_, rfl⟩

theorem Encoded.tLdrReg (ro rb rd : LoReg) : Encoded.Statement (.tLdrReg ro rb rd) := ⟨_, rfl⟩

theorem Encoded.tLdrbReg (ro rb rd : LoReg) : Encoded.Statement (.tLdrbReg ro rb rd) := ⟨_, rfl⟩

theorem Encoded.tStrhReg (ro rb rd : LoReg) : Encoded.Statement (.tStrhReg ro rb rd) := ⟨_, rfl⟩

theorem Encoded.tLdsbReg (ro rb rd : LoReg) : Encoded.Statement (.tLdsbReg ro rb rd) := ⟨_, rfl⟩

theorem Encoded.tLdrhReg (ro rb rd : LoReg) : Encoded.Statement (.tLdrhReg ro rb rd) := ⟨_, rfl⟩

theorem Encoded.tLdshReg (ro rb rd : LoReg) : Encoded.Statement (.tLdshReg ro rb rd) := ⟨_, rfl⟩

theorem Encoded.tStrImm (nn : BitVec 5) (rb rd : LoReg) : Encoded.Statement (.tStrImm nn rb rd) := ⟨_, rfl⟩

theorem Encoded.tLdrImm (nn : BitVec 5) (rb rd : LoReg) : Encoded.Statement (.tLdrImm nn rb rd) := ⟨_, rfl⟩

theorem Encoded.tStrbImm (nn : BitVec 5) (rb rd : LoReg) : Encoded.Statement (.tStrbImm nn rb rd) := ⟨_, rfl⟩

theorem Encoded.tLdrbImm (nn : BitVec 5) (rb rd : LoReg) : Encoded.Statement (.tLdrbImm nn rb rd) := ⟨_, rfl⟩

theorem Encoded.tStrhImm (nn : BitVec 5) (rb rd : LoReg) : Encoded.Statement (.tStrhImm nn rb rd) := ⟨_, rfl⟩

theorem Encoded.tLdrhImm (nn : BitVec 5) (rb rd : LoReg) : Encoded.Statement (.tLdrhImm nn rb rd) := ⟨_, rfl⟩

theorem Encoded.tStrSp (rd : LoReg) (nn : BitVec 8) : Encoded.Statement (.tStrSp rd nn) := ⟨_, rfl⟩

theorem Encoded.tLdrSp (rd : LoReg) (nn : BitVec 8) : Encoded.Statement (.tLdrSp rd nn) := ⟨_, rfl⟩

theorem Encoded.tAddPc (rd : LoReg) (nn : BitVec 8) : Encoded.Statement (.tAddPc rd nn) := ⟨_, rfl⟩

theorem Encoded.tAddSp (rd : LoReg) (nn : BitVec 8) : Encoded.Statement (.tAddSp rd nn) := ⟨_, rfl⟩

theorem Encoded.tSpAdd (nn : BitVec 7) : Encoded.Statement (.tSpAdd nn) := ⟨_, rfl⟩

theorem Encoded.tSpSub (nn : BitVec 7) : Encoded.Statement (.tSpSub nn) := ⟨_, rfl⟩

theorem Encoded.tPush (lr : Bool) (list : BitVec 8) : Encoded.Statement (.tPush lr list) := ⟨_, rfl⟩

theorem Encoded.tPop (pc : Bool) (list : BitVec 8) : Encoded.Statement (.tPop pc list) := ⟨_, rfl⟩

theorem Encoded.tStmia (rb : LoReg) (list : BitVec 8) : Encoded.Statement (.tStmia rb list) := ⟨_, rfl⟩

theorem Encoded.tLdmia (rb : LoReg) (list : BitVec 8) : Encoded.Statement (.tLdmia rb list) := ⟨_, rfl⟩

theorem Encoded.tBeq (off : BitVec 8) : Encoded.Statement (.tBeq off) := ⟨_, rfl⟩

theorem Encoded.tBne (off : BitVec 8) : Encoded.Statement (.tBne off) := ⟨_, rfl⟩

theorem Encoded.tBcs (off : BitVec 8) : Encoded.Statement (.tBcs off) := ⟨_, rfl⟩

theorem Encoded.tBcc (off : BitVec 8) : Encoded.Statement (.tBcc off) := ⟨_, rfl⟩

theorem Encoded.tBmi (off : BitVec 8) : Encoded.Statement (.tBmi off) := ⟨_, rfl⟩

theorem Encoded.tBpl (off : BitVec 8) : Encoded.Statement (.tBpl off) := ⟨_, rfl⟩

theorem Encoded.tBvs (off : BitVec 8) : Encoded.Statement (.tBvs off) := ⟨_, rfl⟩

theorem Encoded.tBvc (off : BitVec 8) : Encoded.Statement (.tBvc off) := ⟨_, rfl⟩

theorem Encoded.tBhi (off : BitVec 8) : Encoded.Statement (.tBhi off) := ⟨_, rfl⟩

theorem Encoded.tBls (off : BitVec 8) : Encoded.Statement (.tBls off) := ⟨_, rfl⟩

theorem Encoded.tBge (off : BitVec 8) : Encoded.Statement (.tBge off) := ⟨_, rfl⟩

theorem Encoded.tBlt (off : BitVec 8) : Encoded.Statement (.tBlt off) := ⟨_, rfl⟩

theorem Encoded.tBgt (off : BitVec 8) : Encoded.Statement (.tBgt off) := ⟨_, rfl⟩

theorem Encoded.tBle (off : BitVec 8) : Encoded.Statement (.tBle off) := ⟨_, rfl⟩

theorem Encoded.tSwi (comment : BitVec 8) : Encoded.Statement (.tSwi comment) := ⟨_, rfl⟩

theorem Encoded.tB (off : BitVec 11) : Encoded.Statement (.tB off) := ⟨_, rfl⟩

theorem Encoded.tBlFirst (nn : BitVec 11) : Encoded.Statement (.tBlFirst nn) := ⟨_, rfl⟩

theorem Encoded.tBlSecond (nn : BitVec 11) : Encoded.Statement (.tBlSecond nn) := ⟨_, rfl⟩

end Sys2Proof.Laws
end

