-- ==== Sys2Proof/Machine/Timing.lean ====
section
/-! DEFINITION. The execution times that the spec copies as information (spec/70_reset_and_hazards.md R631, R632, R634),
as counts of its four undefined units. No meaning and no step reads them: the machine has no clock (R630, log 19). -/

namespace Sys2Proof.Machine

/-- How many S, N, I and C cycles (R630: the lengths of the four units are free positive parameters of a cost model). -/
structure Cycles where
  s : Nat
  n : Nat
  i : Nat
  c : Nat
  deriving DecidableEq, Repr

/-- The time of an ARM instruction whose condition fails: 1S (R631). -/
def Cycles.conditionFailed : Cycles := ⟨1, 0, 0, 0⟩

/-- The multiplier count m: how many low bytes of the operand count, its upper bits being all zero (or all one, where
`ones` allows) (R634). -/
def multiplierCount (ones : Bool) (v : Word) : Nat :=
  let plainAbove (k : Nat) : Bool := v >>> k == 0#32 || (ones && v.sshiftRight k == 0xFFFFFFFF#32)
  if plainAbove 8 then 1 else if plainAbove 16 then 2 else if plainAbove 24 then 3 else 4

/-- A result-writing data-processing opcode: 1S+x+y, x for a shift by register, y for Rd=R15 (R631). -/
def Cycles.alu (byRegister : Bool) (rd : Reg) : Cycles :=
  if rd = 15#4 then ⟨2, 1, byRegister.toNat, 0⟩ else ⟨1, 0, byRegister.toNat, 0⟩

/-- A load of one register: 1S+1N+1I, and 1S+1N more into R15 (R631). -/
def Cycles.load (rd : Reg) : Cycles := if rd = 15#4 then ⟨2, 2, 1, 0⟩ else ⟨1, 1, 1, 0⟩

/-- A load of `n` words: nS+1N+1I, and 1S+1N more with R15 among them (R631). -/
def Cycles.loadMultiple (n : Nat) (pc : Bool) : Cycles := if pc then ⟨n + 1, 2, 1, 0⟩ else ⟨n, 1, 1, 0⟩

/-- A store of `n` words: (n-1)S+2N (R631). -/
def Cycles.storeMultiple (n : Nat) : Cycles := ⟨n - 1, 2, 0, 0⟩

/-- A branch: 2S+1N (R631). -/
def Cycles.branch : Cycles := ⟨2, 1, 0, 0⟩

/-- A THUMB conditional branch: 2S+1N when taken, else 1S (R632). -/
def Cycles.branchIf (c : Cond) (s : State) : Cycles :=
  if condPassed c s.cpsr.flags then .branch else ⟨1, 0, 0, 0⟩

/-- The time of an instruction in the state it starts from, its condition passing and no abort being raised. `busy` is
the coprocessor's busy-wait count b, `words` the number of words it transfers (R631, R632). R631 gives no figure for a
coprocessor instruction whose coprocessor is absent, nor for LDC and STC of no words: here the first has the figure of an
attached one, and (n-1)S of n = 0 is 0S (DESIGN CHOICE, log 19). -/
def cyclesOf (busy words : Nat) (s : State) : Instr → Cycles
  | .b .. | .bl .. | .bx .. | .swi .. => .branch
  | .undefined .. => ⟨2, 1, 1, 0⟩
  | .andImm _ _ _ rd _ | .andShImm _ _ _ rd _ => .alu false rd
  | .andShReg _ _ _ rd _ => .alu true rd
  | .eorImm _ _ _ rd _ | .eorShImm _ _ _ rd _ => .alu false rd
  | .eorShReg _ _ _ rd _ => .alu true rd
  | .subImm _ _ _ rd _ | .subShImm _ _ _ rd _ => .alu false rd
  | .subShReg _ _ _ rd _ => .alu true rd
  | .rsbImm _ _ _ rd _ | .rsbShImm _ _ _ rd _ => .alu false rd
  | .rsbShReg _ _ _ rd _ => .alu true rd
  | .addImm _ _ _ rd _ | .addShImm _ _ _ rd _ => .alu false rd
  | .addShReg _ _ _ rd _ => .alu true rd
  | .adcImm _ _ _ rd _ | .adcShImm _ _ _ rd _ => .alu false rd
  | .adcShReg _ _ _ rd _ => .alu true rd
  | .sbcImm _ _ _ rd _ | .sbcShImm _ _ _ rd _ => .alu false rd
  | .sbcShReg _ _ _ rd _ => .alu true rd
  | .rscImm _ _ _ rd _ | .rscShImm _ _ _ rd _ => .alu false rd
  | .rscShReg _ _ _ rd _ => .alu true rd
  | .tstImm .. | .tstShImm .. => ⟨1, 0, 0, 0⟩
  | .tstShReg .. => ⟨1, 0, 1, 0⟩
  | .teqImm .. | .teqShImm .. => ⟨1, 0, 0, 0⟩
  | .teqShReg .. => ⟨1, 0, 1, 0⟩
  | .cmpImm .. | .cmpShImm .. => ⟨1, 0, 0, 0⟩
  | .cmpShReg .. => ⟨1, 0, 1, 0⟩
  | .cmnImm .. | .cmnShImm .. => ⟨1, 0, 0, 0⟩
  | .cmnShReg .. => ⟨1, 0, 1, 0⟩
  | .orrImm _ _ _ rd _ | .orrShImm _ _ _ rd _ => .alu false rd
  | .orrShReg _ _ _ rd _ => .alu true rd
  | .movImm _ _ rd _ | .movShImm _ _ rd _ => .alu false rd
  | .movShReg _ _ rd _ => .alu true rd
  | .bicImm _ _ _ rd _ | .bicShImm _ _ _ rd _ => .alu false rd
  | .bicShReg _ _ _ rd _ => .alu true rd
  | .mvnImm _ _ rd _ | .mvnShImm _ _ rd _ => .alu false rd
  | .mvnShReg _ _ rd _ => .alu true rd
  | .mul _ _ _ rs _ => ⟨1, 0, multiplierCount true (s.reg rs 8), 0⟩
  | .mla _ _ _ _ rs _ => ⟨1, 0, multiplierCount true (s.reg rs 8) + 1, 0⟩
  | .umull _ _ _ _ rs _ => ⟨1, 0, multiplierCount false (s.reg rs 8) + 1, 0⟩
  | .umlal _ _ _ _ rs _ => ⟨1, 0, multiplierCount false (s.reg rs 8) + 2, 0⟩
  | .smull _ _ _ _ rs _ => ⟨1, 0, multiplierCount true (s.reg rs 8) + 1, 0⟩
  | .smlal _ _ _ _ rs _ => ⟨1, 0, multiplierCount true (s.reg rs 8) + 2, 0⟩
  | .mrs .. | .msrReg .. | .msrImm .. => ⟨1, 0, 0, 0⟩
  | .ldrImmPre _ _ _ _ rd _ | .ldrImmPost _ _ _ rd _ | .ldrRegPre _ _ _ _ rd _ | .ldrRegPost _ _ _ rd _
  | .ldrbImmPre _ _ _ _ rd _ | .ldrbImmPost _ _ _ rd _ | .ldrbRegPre _ _ _ _ rd _ | .ldrbRegPost _ _ _ rd _ =>
    .load rd
  | .strImmPre .. | .strImmPost .. | .strRegPre .. | .strRegPost .. | .strbImmPre .. | .strbImmPost ..
  | .strbRegPre .. | .strbRegPost .. => ⟨0, 2, 0, 0⟩
  | .ldrtImm _ _ _ rd _ | .ldrtReg _ _ _ rd _ | .ldrbtImm _ _ _ rd _ | .ldrbtReg _ _ _ rd _ => .load rd
  | .strtImm .. | .strtReg .. | .strbtImm .. | .strbtReg .. | .strhReg .. | .strhImm .. => ⟨0, 2, 0, 0⟩
  | .ldrhReg _ _ _ _ rd _ | .ldrhImm _ _ _ _ rd _ | .ldrsbReg _ _ _ _ rd _ | .ldrsbImm _ _ _ _ rd _
  | .ldrshReg _ _ _ _ rd _ | .ldrshImm _ _ _ _ rd _ => .load rd
  | .stm _ _ _ _ _ list => .storeMultiple (listed list).length
  | .ldm _ _ _ _ _ list => .loadMultiple (listed list).length (list.getLsbD 15)
  | .ldmPcS _ _ _ _ _ list => .loadMultiple ((listed (list.setWidth 16)).length + 1) true
  | .stmS _ _ _ _ _ list => .storeMultiple (listed list).length
  | .ldmUserS _ _ _ _ _ list => .loadMultiple (listed (list.setWidth 16)).length false
  | .swp .. | .swpb .. => ⟨1, 2, 1, 0⟩
  | .mrc .. => ⟨1, 0, busy + 1, 1⟩
  | .mcr .. => ⟨1, 0, busy, 1⟩
  | .cdp .. => ⟨1, 0, busy, 0⟩
  | .ldc .. | .stc .. => ⟨words - 1, 2, busy, 0⟩
  | .tLslImm .. | .tLsrImm .. | .tAsrImm .. | .tAddReg .. | .tSubReg .. | .tAddImm3 .. | .tSubImm3 ..
  | .tMovImm8 .. | .tCmpImm8 .. | .tAddImm8 .. | .tSubImm8 .. | .tAnd .. | .tEor .. => ⟨1, 0, 0, 0⟩
  | .tLslReg .. | .tLsrReg .. | .tAsrReg .. => ⟨1, 0, 1, 0⟩
  | .tAdc .. | .tSbc .. => ⟨1, 0, 0, 0⟩
  | .tRor .. => ⟨1, 0, 1, 0⟩
  | .tTst .. | .tNeg .. | .tCmpReg .. | .tCmn .. | .tOrr .. => ⟨1, 0, 0, 0⟩
  | .tMul _ rd => ⟨1, 0, multiplierCount true (s.reg (lo rd) 4), 0⟩
  | .tBic .. | .tMvn .. => ⟨1, 0, 0, 0⟩
  | .tAddHiDst _ rd => if rd = 7#3 then .branch else ⟨1, 0, 0, 0⟩
  | .tAddHiSrc .. | .tCmpHiDst .. | .tCmpHiSrc .. => ⟨1, 0, 0, 0⟩
  | .tMovHiDst _ rd => if rd = 7#3 then .branch else ⟨1, 0, 0, 0⟩
  | .tMovHiSrc .. => ⟨1, 0, 0, 0⟩
  | .tBx .. => .branch
  | .tLdrPc .. => ⟨1, 1, 1, 0⟩
  | .tStrReg .. | .tStrbReg .. => ⟨0, 2, 0, 0⟩
  | .tLdrReg .. | .tLdrbReg .. => ⟨1, 1, 1, 0⟩
  | .tStrhReg .. => ⟨0, 2, 0, 0⟩
  | .tLdsbReg .. | .tLdrhReg .. | .tLdshReg .. => ⟨1, 1, 1, 0⟩
  | .tStrImm .. => ⟨0, 2, 0, 0⟩
  | .tLdrImm .. => ⟨1, 1, 1, 0⟩
  | .tStrbImm .. => ⟨0, 2, 0, 0⟩
  | .tLdrbImm .. => ⟨1, 1, 1, 0⟩
  | .tStrhImm .. => ⟨0, 2, 0, 0⟩
  | .tLdrhImm .. => ⟨1, 1, 1, 0⟩
  | .tStrSp .. => ⟨0, 2, 0, 0⟩
  | .tLdrSp .. => ⟨1, 1, 1, 0⟩
  | .tAddPc .. | .tAddSp .. | .tSpAdd .. | .tSpSub .. => ⟨1, 0, 0, 0⟩
  | .tPush lr list => .storeMultiple ((listed (list.setWidth 16)).length + lr.toNat)
  | .tPop pc list => .loadMultiple ((listed (list.setWidth 16)).length + pc.toNat) pc
  | .tStmia _ list => .storeMultiple (listed (list.setWidth 16)).length
  | .tLdmia _ list => .loadMultiple (listed (list.setWidth 16)).length false
  | .tBeq .. => .branchIf .eq s
  | .tBne .. => .branchIf .ne s
  | .tBcs .. => .branchIf .cs s
  | .tBcc .. => .branchIf .cc s
  | .tBmi .. => .branchIf .mi s
  | .tBpl .. => .branchIf .pl s
  | .tBvs .. => .branchIf .vs s
  | .tBvc .. => .branchIf .vc s
  | .tBhi .. => .branchIf .hi s
  | .tBls .. => .branchIf .ls s
  | .tBge .. => .branchIf .ge s
  | .tBlt .. => .branchIf .lt s
  | .tBgt .. => .branchIf .gt s
  | .tBle .. => .branchIf .le s
  | .tSwi .. | .tB .. => .branch
  | .tBlFirst .. => ⟨1, 0, 0, 0⟩
  | .tBlSecond .. => .branch

end Sys2Proof.Machine
end

