-- ==== Sys2Proof/Tests/Slice0.lean ====
section
/-! SUPPORT. The model's own tests: the decoder on words written out from the spec's encodings, one step on small states
(spec/95_test_vectors.md), refusals, events, ill-formed terms, and for each statement states that meet its hypotheses. -/

namespace Sys2Proof.Tests

open Sys2Proof Sys2Proof.Machine

/-! ## Decoding: each row of spec/opcode_table.json, its `match` with field values put in -/

/-- The decoder reads each code of `nbits` bits as the instruction beside it. -/
def decodes (nbits : Nat) (rows : List (Nat × Instr)) : Bool :=
  rows.all fun r => decide (decodeTableWord nbits r.1 = some r.2)

/-- spec/40_arm_branch.md R150 to R160. -/
theorem test_decode_arm_branches : decodes 32 [
    (0xCA73AB49, .b .gt 0x73AB49#24),
    (0x4B2F45E7, .bl .mi 0x2F45E7#24),
    (0xD12FFF1B, .bx .le 0xB#4),
    (0x3F18187A, .swi .cc 0x18187A#24),
    (0x76489972, .undefined .vc 0x244CB#20 2#4)] = true := by decide

/-- spec/30_encoding.md R103, R104, R190 to R193. -/
theorem test_decode_alu_and_eor_sub_rsb : decodes 32 [
    (0xE218BC9E, .andImm .al true 8#4 0xB#4 ⟨0xC#4, 0x9E#8⟩),
    (0x300E91A1, .andShImm .cc false 0xE#4 9#4 ⟨1#4, .lsr, 3#5⟩),
    (0x500D865A, .andShReg .pl false 0xD#4 8#4 ⟨0xA#4, .asr, 6#4⟩),
    (0x422B5802, .eorImm .mi false 0xB#4 5#4 ⟨8#4, 2#8⟩),
    (0x003B576F, .eorShImm .eq true 0xB#4 5#4 ⟨0xF#4, .ror, 0xE#5⟩),
    (0x0036D475, .eorShReg .eq true 6#4 0xD#4 ⟨5#4, .ror, 4#4⟩),
    (0x02472E4B, .subImm .eq false 7#4 2#4 ⟨0xE#4, 0x4B#8⟩),
    (0x004EB0A4, .subShImm .eq false 0xE#4 0xB#4 ⟨4#4, .lsr, 1#5⟩),
    (0xE057C752, .subShReg .al true 7#4 0xC#4 ⟨2#4, .asr, 7#4⟩),
    (0x42762556, .rsbImm .mi true 6#4 2#4 ⟨5#4, 0x56#8⟩),
    (0xB0634BA1, .rsbShImm .lt false 3#4 4#4 ⟨1#4, .lsr, 0x17#5⟩),
    (0xC073B938, .rsbShReg .gt true 3#4 0xB#4 ⟨8#4, .lsr, 9#4⟩)] = true := by decide

/-- spec/30_encoding.md R103, R194 to R197. -/
theorem test_decode_alu_add_adc_sbc_rsc : decodes 32 [
    (0x4287B71E, .addImm .mi false 7#4 0xB#4 ⟨7#4, 0x1E#8⟩),
    (0xB0815E65, .addShImm .lt false 1#4 5#4 ⟨5#4, .ror, 0x1C#5⟩),
    (0xE0837E7B, .addShReg .al false 3#4 7#4 ⟨0xB#4, .ror, 0xE#4⟩),
    (0x12A34843, .adcImm .ne false 3#4 4#4 ⟨8#4, 0x43#8⟩),
    (0x80B721A4, .adcShImm .hi true 7#4 2#4 ⟨4#4, .lsr, 3#5⟩),
    (0x50AA6678, .adcShReg .pl false 0xA#4 6#4 ⟨8#4, .ror, 6#4⟩),
    (0xD2CE73A1, .sbcImm .le false 0xE#4 7#4 ⟨3#4, 0xA1#8⟩),
    (0x70CEA464, .sbcShImm .vc false 0xE#4 0xA#4 ⟨4#4, .ror, 8#5⟩),
    (0x40DF8A37, .sbcShReg .mi true 0xF#4 8#4 ⟨7#4, .lsr, 0xA#4⟩),
    (0x12E1953E, .rscImm .ne false 1#4 9#4 ⟨5#4, 0x3E#8⟩),
    (0xA0F7EEE8, .rscShImm .ge true 7#4 0xE#4 ⟨8#4, .ror, 0x1D#5⟩),
    (0x30E3487B, .rscShReg .cc false 3#4 4#4 ⟨0xB#4, .ror, 8#4⟩)] = true := by decide

/-- spec/30_encoding.md R103, R198 to R201. -/
theorem test_decode_alu_compares : decodes 32 [
    (0x03150FEB, .tstImm .eq 5#4 ⟨0xF#4, 0xEB#8⟩),
    (0xE1120744, .tstShImm .al 2#4 ⟨4#4, .asr, 0xE#5⟩),
    (0xE113067A, .tstShReg .al 3#4 ⟨0xA#4, .ror, 6#4⟩),
    (0x03360F74, .teqImm .eq 6#4 ⟨0xF#4, 0x74#8⟩),
    (0x213A0F28, .teqShImm .cs 0xA#4 ⟨8#4, .lsr, 0x1E#5⟩),
    (0x913C013A, .teqShReg .ls 0xC#4 ⟨0xA#4, .lsr, 1#4⟩),
    (0x03580C50, .cmpImm .eq 8#4 ⟨0xC#4, 0x50#8⟩),
    (0x215207E6, .cmpShImm .cs 2#4 ⟨6#4, .ror, 0xF#5⟩),
    (0xE15F0C7C, .cmpShReg .al 0xF#4 ⟨0xC#4, .ror, 0xC#4⟩),
    (0x83760B7A, .cmnImm .hi 6#4 ⟨0xB#4, 0x7A#8⟩),
    (0x017E072E, .cmnShImm .eq 0xE#4 ⟨0xE#4, .lsr, 0xE#5⟩),
    (0xE17A075A, .cmnShReg .al 0xA#4 ⟨0xA#4, .asr, 7#4⟩)] = true := by decide

/-- spec/30_encoding.md R103, R202 to R205. -/
theorem test_decode_alu_orr_mov_bic_mvn : decodes 32 [
    (0x0382B2FF, .orrImm .eq false 2#4 0xB#4 ⟨2#4, 0xFF#8⟩),
    (0xB197FC6A, .orrShImm .lt true 7#4 0xF#4 ⟨0xA#4, .ror, 0x18#5⟩),
    (0xC19E927D, .orrShReg .gt true 0xE#4 9#4 ⟨0xD#4, .ror, 2#4⟩),
    (0xE3B02806, .movImm .al true 2#4 ⟨8#4, 6#8⟩),
    (0x11B0AB45, .movShImm .ne true 0xA#4 ⟨5#4, .asr, 0x16#5⟩),
    (0xE1B03B74, .movShReg .al true 3#4 ⟨4#4, .ror, 0xB#4⟩),
    (0x33DBF880, .bicImm .cc true 0xB#4 0xF#4 ⟨8#4, 0x80#8⟩),
    (0x51D7B4AB, .bicShImm .pl true 7#4 0xB#4 ⟨0xB#4, .lsr, 9#5⟩),
    (0x41C74A54, .bicShReg .mi false 7#4 4#4 ⟨4#4, .asr, 0xA#4⟩),
    (0x23F0EFDA, .mvnImm .cs true 0xE#4 ⟨0xF#4, 0xDA#8⟩),
    (0x01F03248, .mvnShImm .eq true 3#4 ⟨8#4, .asr, 4#5⟩),
    (0x41F0B95B, .mvnShReg .mi true 0xB#4 ⟨0xB#4, .asr, 9#4⟩)] = true := by decide

/-- spec/30_encoding.md R107. -/
theorem test_decode_multiplies : decodes 32 [
    (0xC0120E91, .mul .gt true 2#4 0xE#4 1#4),
    (0xE03A659B, .mla .al true 0xA#4 6#4 5#4 0xB#4),
    (0xE0878491, .umull .al false 7#4 8#4 4#4 1#4),
    (0x60AD3D91, .umlal .vs false 0xD#4 3#4 0xD#4 1#4),
    (0x10D2B99B, .smull .ne true 2#4 0xB#4 9#4 0xB#4),
    (0x90EB449E, .smlal .ls false 0xB#4 4#4 4#4 0xE#4)] = true := by decide

/-- spec/30_encoding.md R105. -/
theorem test_decode_psr_transfers : decodes 32 [
    (0x610FC000, .mrs .vs false 0xC#4),
    (0xD123F009, .msrReg .le false ⟨false, false, true, true⟩ 9#4),
    (0x3363F374, .msrImm .cc true ⟨false, false, true, true⟩ ⟨3#4, 0x74#8⟩)] = true := by decide

/-- spec/30_encoding.md R110. -/
theorem test_decode_ldr_ldrb : decodes 32 [
    (0x4537991A, .ldrImmPre .mi false true 7#4 9#4 0x91A#12),
    (0x8412CDDC, .ldrImmPost .hi false 2#4 0xC#4 0xDDC#12),
    (0x1734F6A5, .ldrRegPre .ne false true 4#4 0xF#4 ⟨5#4, .lsr, 0xD#5⟩),
    (0xE6992146, .ldrRegPost .al true 9#4 2#4 ⟨6#4, .asr, 2#5⟩),
    (0xB5D8F075, .ldrbImmPre .lt true false 8#4 0xF#4 0x75#12),
    (0x04DD12C5, .ldrbImmPost .eq true 0xD#4 1#4 0x2C5#12),
    (0x877838E9, .ldrbRegPre .hi false true 8#4 3#4 ⟨9#4, .ror, 0x11#5⟩),
    (0xD65D47E9, .ldrbRegPost .le false 0xD#4 4#4 ⟨9#4, .ror, 0xF#5⟩)] = true := by decide

/-- spec/30_encoding.md R110. -/
theorem test_decode_str_strb : decodes 32 [
    (0x3585B61A, .strImmPre .cc true false 5#4 0xB#4 0x61A#12),
    (0x248A8338, .strImmPost .cs true 0xA#4 8#4 0x338#12),
    (0x172A70E1, .strRegPre .ne false true 0xA#4 7#4 ⟨1#4, .ror, 1#5⟩),
    (0x1682C32F, .strRegPost .ne true 2#4 0xC#4 ⟨0xF#4, .lsr, 6#5⟩),
    (0xC5EFDEC7, .strbImmPre .gt true true 0xF#4 0xD#4 0xEC7#12),
    (0x54C83570, .strbImmPost .pl true 8#4 3#4 0x570#12),
    (0xD7E24761, .strbRegPre .le true true 2#4 4#4 ⟨1#4, .ror, 0xE#5⟩),
    (0xE644342B, .strbRegPost .al false 4#4 3#4 ⟨0xB#4, .lsr, 8#5⟩)] = true := by decide

/-- spec/30_encoding.md R110, R263. -/
theorem test_decode_t_forms : decodes 32 [
    (0x84B4A7FC, .ldrtImm .hi true 4#4 0xA#4 0x7FC#12),
    (0xD63E9A4C, .ldrtReg .le false 0xE#4 9#4 ⟨0xC#4, .asr, 0x14#5⟩),
    (0xB477B69E, .ldrbtImm .lt false 7#4 0xB#4 0x69E#12),
    (0x367EB964, .ldrbtReg .cc false 0xE#4 0xB#4 ⟨4#4, .ror, 0x12#5⟩),
    (0x4424FBDB, .strtImm .mi false 4#4 0xF#4 0xBDB#12),
    (0x9626A5A4, .strtReg .ls false 6#4 0xA#4 ⟨4#4, .lsr, 0xB#5⟩),
    (0x4463F3D5, .strbtImm .mi false 3#4 0xF#4 0x3D5#12),
    (0x06E72749, .strbtReg .eq true 7#4 2#4 ⟨9#4, .asr, 0xE#5⟩)] = true := by decide

/-- spec/30_encoding.md R109. -/
theorem test_decode_halfword_transfers : decodes 32 [
    (0x208240BB, .strhReg .cs .post true 2#4 4#4 0xB#4),
    (0x90CD28B2, .strhImm .ls .post true 0xD#4 2#4 0x82#8),
    (0xE11320B3, .ldrhReg .al (.pre false) false 3#4 2#4 3#4),
    (0x3153B8B2, .ldrhImm .cc (.pre false) false 3#4 0xB#4 0x82#8),
    (0x11B790D7, .ldrsbReg .ne (.pre true) true 7#4 9#4 7#4),
    (0x905378D6, .ldrsbImm .ls .post false 3#4 7#4 0x86#8),
    (0x911290F1, .ldrshReg .ls (.pre false) false 2#4 9#4 1#4),
    (0x017DD5F5, .ldrshImm .eq (.pre true) false 0xD#4 0xD#4 0x55#8)] = true := by decide

/-- spec/30_encoding.md R112. -/
theorem test_decode_block_transfers : decodes 32 [
    (0x188F5476, .stm .ne false true false 0xF#4 0x5476#16),
    (0x9934B8FF, .ldm .ls true false true 4#4 0xB8FF#16),
    (0x09F282B7, .ldmPcS .eq true true true 2#4 0x2B7#15),
    (0x986B4C83, .stmS .ls false false true 0xB#4 0x4C83#16),
    (0x495703C4, .ldmUserS .mi true false false 7#4 0x3C4#15)] = true := by decide

/-- spec/30_encoding.md R108. -/
theorem test_decode_swaps : decodes 32 [
    (0x410C209D, .swp .mi 0xC#4 2#4 0xD#4),
    (0xE142A092, .swpb .al 2#4 0xA#4 2#4)] = true := by decide

/-- spec/30_encoding.md R115. -/
theorem test_decode_coprocessor : decodes 32 [
    (0x5E78793D, .mrc .pl 9#4 ⟨3#3, 8#4, 0xD#4, 1#3⟩ 7#4),
    (0xAE22557F, .mcr .ge 5#4 ⟨1#3, 2#4, 0xF#4, 3#3⟩ 5#4),
    (0xBE9AE2C8, .cdp .lt 2#4 9#4 0xE#4 0xA#4 8#4 6#3),
    (0x0CB83E7F, .ldc .eq false true false true 8#4 3#4 0xE#4 0x7F#8),
    (0xEDE97A50, .stc .al true true true true 9#4 7#4 0xA#4 0x50#8)] = true := by decide

/-- spec/30_encoding.md R120. -/
theorem test_decode_thumb_1_to_3 : decodes 16 [
    (0x032B, .tLslImm 0xC#5 5#3 3#3),
    (0x0C33, .tLsrImm 0x10#5 6#3 3#3),
    (0x149E, .tAsrImm 0x12#5 3#3 6#3),
    (0x19B3, .tAddReg 6#3 6#3 3#3),
    (0x1A4F, .tSubReg 1#3 1#3 7#3),
    (0x1CA9, .tAddImm3 2#3 5#3 1#3),
    (0x1F94, .tSubImm3 6#3 2#3 4#3),
    (0x27B0, .tMovImm8 7#3 0xB0#8),
    (0x2C0E, .tCmpImm8 4#3 0xE#8),
    (0x33C0, .tAddImm8 3#3 0xC0#8),
    (0x3C0D, .tSubImm8 4#3 0xD#8)] = true := by decide

/-- spec/30_encoding.md R120. -/
theorem test_decode_thumb_4 : decodes 16 [
    (0x402E, .tAnd 5#3 6#3),
    (0x4059, .tEor 3#3 1#3),
    (0x40BA, .tLslReg 7#3 2#3),
    (0x40E6, .tLsrReg 4#3 6#3),
    (0x4123, .tAsrReg 4#3 3#3),
    (0x417A, .tAdc 7#3 2#3),
    (0x418D, .tSbc 1#3 5#3),
    (0x41CF, .tRor 1#3 7#3),
    (0x4234, .tTst 6#3 4#3),
    (0x4257, .tNeg 2#3 7#3),
    (0x4295, .tCmpReg 2#3 5#3),
    (0x42F1, .tCmn 6#3 1#3),
    (0x430D, .tOrr 1#3 5#3),
    (0x4364, .tMul 4#3 4#3),
    (0x438A, .tBic 1#3 2#3),
    (0x43F9, .tMvn 7#3 1#3)] = true := by decide

/-- spec/30_encoding.md R120, R122. -/
theorem test_decode_thumb_5 : decodes 16 [
    (0x448B, .tAddHiDst 1#4 3#3),
    (0x4474, .tAddHiSrc 6#3 4#3),
    (0x45F5, .tCmpHiDst 0xE#4 5#3),
    (0x457E, .tCmpHiSrc 7#3 6#3),
    (0x46F2, .tMovHiDst 0xE#4 2#3),
    (0x464D, .tMovHiSrc 1#3 5#3),
    (0x4778, .tBx 0xF#4)] = true := by decide

/-- spec/30_encoding.md R120. -/
theorem test_decode_thumb_6_to_8 : decodes 16 [
    (0x4DA0, .tLdrPc 5#3 0xA0#8),
    (0x51DB, .tStrReg 7#3 3#3 3#3),
    (0x54EE, .tStrbReg 3#3 5#3 6#3),
    (0x59AE, .tLdrReg 6#3 5#3 6#3),
    (0x5D56, .tLdrbReg 5#3 2#3 6#3),
    (0x52FA, .tStrhReg 3#3 7#3 2#3),
    (0x5695, .tLdsbReg 2#3 2#3 5#3),
    (0x5B96, .tLdrhReg 6#3 2#3 6#3),
    (0x5E71, .tLdshReg 1#3 6#3 1#3)] = true := by decide

/-- spec/30_encoding.md R120. -/
theorem test_decode_thumb_9_to_11 : decodes 16 [
    (0x605B, .tStrImm 1#5 3#3 3#3),
    (0x6B8D, .tLdrImm 0xE#5 1#3 5#3),
    (0x708A, .tStrbImm 2#5 1#3 2#3),
    (0x7C99, .tLdrbImm 0x12#5 3#3 1#3),
    (0x864E, .tStrhImm 0x19#5 1#3 6#3),
    (0x89AA, .tLdrhImm 6#5 5#3 2#3),
    (0x96FC, .tStrSp 6#3 0xFC#8),
    (0x9B7C, .tLdrSp 3#3 0x7C#8)] = true := by decide

/-- spec/30_encoding.md R120. -/
theorem test_decode_thumb_12_to_15 : decodes 16 [
    (0xA45B, .tAddPc 4#3 0x5B#8),
    (0xAA57, .tAddSp 2#3 0x57#8),
    (0xB02C, .tSpAdd 0x2C#7),
    (0xB0C0, .tSpSub 0x40#7),
    (0xB4D7, .tPush false 0xD7#8),
    (0xBCCE, .tPop false 0xCE#8),
    (0xC173, .tStmia 1#3 0x73#8),
    (0xCFD3, .tLdmia 7#3 0xD3#8)] = true := by decide

/-- spec/30_encoding.md R120. -/
theorem test_decode_thumb_16_to_19 : decodes 16 [
    (0xD0A0, .tBeq 0xA0#8),
    (0xD1D7, .tBne 0xD7#8),
    (0xD2C5, .tBcs 0xC5#8),
    (0xD3C5, .tBcc 0xC5#8),
    (0xD437, .tBmi 0x37#8),
    (0xD572, .tBpl 0x72#8),
    (0xD66D, .tBvs 0x6D#8),
    (0xD7C0, .tBvc 0xC0#8),
    (0xD843, .tBhi 0x43#8),
    (0xD964, .tBls 0x64#8),
    (0xDAD0, .tBge 0xD0#8),
    (0xDB27, .tBlt 0x27#8),
    (0xDC5F, .tBgt 0x5F#8),
    (0xDD28, .tBle 0x28#8),
    (0xDFA8, .tSwi 0xA8#8),
    (0xE6B1, .tB 0x6B1#11),
    (0xF7EA, .tBlFirst 0x7EA#11),
    (0xFCC6, .tBlSecond 0x4C6#11)] = true := by decide

/-! ## One step -/

/-- A state with these CPSR bits, this pc, these registers of the mode and these values in memory, else as after
reset. -/
def start (cpsr pc : Nat) (regs : List (Nat × Nat)) (mem : List (Nat × Width × Nat)) : State :=
  let p := Psr.ofWord (BitVec.ofNat 32 cpsr)
  let s : State := { State.reset with
    pc := BitVec.ofNat 32 pc
    cpsr := ⟨p.flags, p.i, p.f, p.t, (Mode.ofBits p.m).getD .usr⟩
    mem := mem.foldl (fun m c => m.write (BitVec.ofNat 32 c.1) c.2.1 (BitVec.ofNat 32 c.2.2)) [] }
  regs.foldl (fun t r => t.setReg (BitVec.ofNat 4 r.1) (BitVec.ofNat 32 r.2)) s

/-- The state with a physical register set. -/
def inBank (s : State) (g : GReg) (v : Nat) : State := { s with regs := s.regs.set g (BitVec.ofNat 32 v) }

/-- The state with an SPSR set. -/
def inSpsr (s : State) (m : Mode) (v : Nat) : State :=
  { s with spsrs := s.spsrs.set m (Psr.ofWord (BitVec.ofNat 32 v)) }

/-- The code, fetched and run, ends in a state that passes the check. -/
def gives (s : State) (nbits w : Nat) (check : State → Bool) : Bool :=
  match step (s.withFetchWord nbits w) with
  | .next t => check t
  | .fault _ => false
  | .refused _ => false

/-- The code, fetched and run, is refused for this reason. -/
def refuses (s : State) (nbits w : Nat) (r : Refusal) : Bool :=
  match step (s.withFetchWord nbits w) with
  | .next _ => false
  | .fault _ => false
  | .refused q => decide (q = r)

/-- A register of the current mode as a number. -/
def x (t : State) (i : Nat) : Nat := (t.reg (BitVec.ofNat 4 i) 0).toNat

/-- The CPSR as a word whose bits 27-8 are 0. -/
def psr (t : State) : Nat :=
  let c := t.cpsr
  let f := c.flags
  2 ^ 31 * f.n.toNat + 2 ^ 30 * f.z.toNat + 2 ^ 29 * f.c.toNat + 2 ^ 28 * f.v.toNat + 2 ^ 7 * c.i.toNat +
    2 ^ 6 * c.f.toNat + 2 ^ 5 * c.t.toNat + c.mode.bits.toNat

/-- The state on a platform with these aborts and coprocessors. -/
def onPlatform (s : State) (aborts : List AbortRange) (coprocs : List (BitVec 4)) : State :=
  { s with platform := ⟨aborts, [], coprocs, false⟩ }

/-- The codes are refused for the reasons beside them. -/
def refusesAll (s : State) (nbits : Nat) (rows : List (Nat × Refusal)) : Bool :=
  rows.all fun r => refuses s nbits r.1 r.2

/-- The state's own step, with whatever stands at its pc, ends in a state that passes the check. -/
def steps (s : State) (check : State → Bool) : Bool :=
  match step s with
  | .next t => check t
  | .fault _ => false
  | .refused _ => false

/-- The state's own step is refused for this reason. -/
def stops (s : State) (r : Refusal) : Bool :=
  match step s with
  | .next _ => false
  | .fault _ => false
  | .refused q => decide (q = r)

/-- spec/95_test_vectors.md: BEQ 00008010h. -/
theorem test_b_taken : gives (start 0x4000001f 0x8000 [] []) 32 0x0A000002 (fun t => decide (t.pc = 0x8010#32)) =
    true := by decide

/-- spec/95_test_vectors.md: B -2000000h. -/
theorem test_b_backwards : gives (start 0x1f 0x8000 [] []) 32 0xEA800000 (fun t => decide (t.pc = 0xfe008008#32))
    = true := by decide

/-- spec/95_test_vectors.md: BL +0. -/
theorem test_bl_links_in_the_current_mode : gives (inBank (start 0x92 0x8000 [] []) .r14 0x11111111) 32 0xEB000000
    (fun t => decide (t.regs.r14Irq = 0x8004#32 ∧ t.pc = 0x8008#32)) = true := by decide

/-- spec/95_test_vectors.md: BX R0. -/
theorem test_bx_to_thumb : gives (start 0x1f 0x8000 [(0, 0x9003)] []) 32 0xE12FFF10 (fun t => decide (psr t = 0x3f
    ∧ t.pc = 0x9002#32)) = true := by decide

/-- spec/95_test_vectors.md: BX R0. -/
theorem test_bx_stays_arm : gives (start 0x1f 0x8000 [(0, 0x9002)] []) 32 0xE12FFF10 (fun t => decide (t.pc =
    0x9000#32)) = true := by decide

/-- spec/95_test_vectors.md: SWI 123456h. -/
theorem test_swi_enters_supervisor : gives (inSpsr (inBank (start 0x80000013 0x8000 [] []) .r14Svc 0xaaaaaaaa)
    .svc 0xbbbbbbbb) 32 0xEF123456 (fun t => decide (t.regs.r14Svc = 0x8004#32 ∧ t.spsrs.svc = Psr.ofWord
    0x80000013#32 ∧ psr t = 0x80000093 ∧ t.pc = 0x8#32)) = true := by decide

/-- spec/95_test_vectors.md: (Undefined format). -/
theorem test_undefined_enters_undefined : gives (start 0xf0000010 0x8000 [] []) 32 0xE6000010 (fun t => decide
    (t.regs.r14Und = 0x8004#32 ∧ t.spsrs.und = Psr.ofWord 0xf0000010#32 ∧ psr t = 0xf000009b ∧ t.pc = 0x4#32)) =
    true := by decide

/-- spec/95_test_vectors.md: MOVS R0,#80000000h. -/
theorem test_movs_rotated_immediate_sets_carry : gives (start 0x1f 0x8000 [] []) 32 0xE3B00102 (fun t => decide (x
    t 0 = 0x80000000 ∧ psr t = 0xa000001f ∧ t.pc = 0x8004#32)) = true := by decide

/-- spec/95_test_vectors.md: MOVS R0,R1,RRX (ROR field, amount 0). -/
theorem test_movs_rrx : gives (start 0x1f 0x8000 [(1, 0x80000001)] []) 32 0xE1B00061 (fun t => decide (x t 0 =
    0x40000000 ∧ psr t = 0x2000001f ∧ t.pc = 0x8004#32)) = true := by decide

/-- spec/95_test_vectors.md: MOVS PC,R14. -/
theorem test_movs_pc_lr_returns : gives (inSpsr (inBank (start 0x93 0x8000 [] []) .r14Svc 0x8000104) .svc 0x3f) 32
    0xE1B0F00E (fun t => decide (psr t = 0x3f ∧ t.pc = 0x8000104#32)) = true := by decide

/-- spec/95_test_vectors.md: MOVS R0,R1,LSL R2. -/
theorem test_movs_lsl_by_32 : gives (start 0x1f 0x8000 [(0, 0x55555555), (1, 0x80000001), (2, 0x20)] []) 32
    0xE1B00211 (fun t => decide (x t 0 = 0x0 ∧ psr t = 0x6000001f ∧ t.pc = 0x8004#32)) = true := by decide

/-- spec/95_test_vectors.md: MOVS R0,R1,ROR R2. -/
theorem test_movs_ror_by_33 : gives (start 0x1f 0x8000 [(0, 0x55555555), (1, 0x80000001), (2, 0x21)] []) 32
    0xE1B00271 (fun t => decide (x t 0 = 0xc0000000 ∧ psr t = 0xa000001f ∧ t.pc = 0x8004#32)) = true := by decide

/-- spec/95_test_vectors.md: ADD R0,PC,R1. -/
theorem test_add_reads_pc_plus_8 : gives (start 0x1f 0x8000 [(1, 0x10)] []) 32 0xE08F0001 (fun t => decide (x t 0
    = 0x8018 ∧ t.pc = 0x8004#32)) = true := by decide

/-- spec/95_test_vectors.md: ADD R0,PC,R1,LSL R2. -/
theorem test_add_shift_by_register_reads_pc_plus_12 : gives (start 0x1f 0x8000 [(1, 0x10), (2, 0x4)] []) 32
    0xE08F0211 (fun t => decide (x t 0 = 0x810c ∧ t.pc = 0x8004#32)) = true := by decide

/-- spec/95_test_vectors.md: SUBS R0,R0,#1. -/
theorem test_subs_overflow : gives (start 0x1f 0x8000 [(0, 0x80000000)] []) 32 0xE2500001 (fun t => decide (x t 0
    = 0x7fffffff ∧ psr t = 0x3000001f ∧ t.pc = 0x8004#32)) = true := by decide

/-- spec/95_test_vectors.md: SUBS PC,R14,#4. -/
theorem test_subs_pc_lr_4_returns : gives (inSpsr (inBank (start 0x92 0x8000 [] []) .r14Irq 0x8000106) .irq
    0x2000003f) 32 0xE25EF004 (fun t => decide (psr t = 0x2000003f ∧ t.pc = 0x8000102#32)) = true := by decide

/-- spec/95_test_vectors.md: ADDS R0,R0,#1. -/
theorem test_adds_carry : gives (start 0x1f 0x8000 [(0, 0xffffffff)] []) 32 0xE2900001 (fun t => decide (x t 0 =
    0x0 ∧ psr t = 0x6000001f ∧ t.pc = 0x8004#32)) = true := by decide

/-- spec/95_test_vectors.md: ADD PC,PC,#4. -/
theorem test_add_pc_branches : gives (start 0x1f 0x8000 [] []) 32 0xE28FF004 (fun t => decide (t.pc = 0x800c#32))
    = true := by decide

/-- spec/95_test_vectors.md: RSBS R0,R0,#0. -/
theorem test_rsbs_of_the_most_negative : gives (start 0x1f 0x8000 [(0, 0x80000000)] []) 32 0xE2700000 (fun t =>
    decide (x t 0 = 0x80000000 ∧ psr t = 0x9000001f ∧ t.pc = 0x8004#32)) = true := by decide

/-- spec/95_test_vectors.md: ADCS R0,R0,R1. -/
theorem test_adcs_overflow : gives (start 0x2000001f 0x8000 [(0, 0x7fffffff), (1, 0x0)] []) 32 0xE0B00001 (fun t
    => decide (x t 0 = 0x80000000 ∧ psr t = 0x9000001f ∧ t.pc = 0x8004#32)) = true := by decide

/-- spec/95_test_vectors.md: ADCS R0,R0,R1,RRX. -/
theorem test_adcs_takes_the_old_carry_not_the_shifter : gives (start 0x2000001f 0x8000 [(0, 0x0), (1, 0x1)] []) 32
    0xE0B00061 (fun t => decide (x t 0 = 0x80000001 ∧ psr t = 0x8000001f ∧ t.pc = 0x8004#32)) = true := by decide

/-- spec/95_test_vectors.md: SBCS R0,R0,R1. -/
theorem test_sbcs_borrow : gives (start 0x2000001f 0x8000 [(0, 0x0), (1, 0xffffffff)] []) 32 0xE0D00001 (fun t =>
    decide (x t 0 = 0x1 ∧ psr t = 0x1f ∧ t.pc = 0x8004#32)) = true := by decide

/-- spec/95_test_vectors.md: RSCS R0,R0,R1. -/
theorem test_rscs_borrow : gives (start 0x1f 0x8000 [(0, 0x1), (1, 0x1)] []) 32 0xE0F00001 (fun t => decide (x t 0
    = 0xffffffff ∧ psr t = 0x8000001f ∧ t.pc = 0x8004#32)) = true := by decide

/-- spec/95_test_vectors.md: ANDS R0,R0,R1,LSL #1. -/
theorem test_ands_shifter_carry : gives (start 0x1000001f 0x8000 [(0, 0xffffffff), (1, 0x80000000)] []) 32
    0xE0100081 (fun t => decide (x t 0 = 0x0 ∧ psr t = 0x7000001f ∧ t.pc = 0x8004#32)) = true := by decide

/-- spec/95_test_vectors.md: CMP R0,R1. -/
theorem test_cmp_overflow : gives (start 0x1f 0x8000 [(0, 0x80000000), (1, 0x7fffffff)] []) 32 0xE1500001 (fun t
    => decide (psr t = 0x3000001f ∧ t.pc = 0x8004#32)) = true := by decide

/-- spec/95_test_vectors.md: TEQ R0,#80000000h. -/
theorem test_teq_rotated_carry : gives (start 0x1f 0x8000 [(0, 0x80000000)] []) 32 0xE3300102 (fun t => decide
    (psr t = 0x6000001f ∧ t.pc = 0x8004#32)) = true := by decide

/-- spec/95_test_vectors.md: MUL R0,R1,R2. -/
theorem test_mul_wraps : gives (start 0xf000001f 0x8000 [(1, 0x12345678), (2, 0x9abcdef0)] []) 32 0xE0000291 (fun
    t => decide (x t 0 = 0x242d2080 ∧ psr t = 0xf000001f ∧ t.pc = 0x8004#32)) = true := by decide

/-- spec/95_test_vectors.md: MLAS R0,R1,R2,R3. -/
theorem test_mlas_zero : gives (start 0x1f 0x8000 [(1, 0x2), (2, 0x3), (3, 0xfffffffa)] []) 32 0xE0303291 (fun t
    => decide (x t 0 = 0x0 ∧ t.cpsr.flags.n = false ∧ t.cpsr.flags.z = true ∧ t.pc = 0x8004#32)) = true := by
    decide

/-- spec/95_test_vectors.md: UMULLS R0,R1,R2,R3. -/
theorem test_umulls_full_product : gives (start 0x1f 0x8000 [(2, 0xffffffff), (3, 0xffffffff)] []) 32 0xE0910392
    (fun t => decide (x t 0 = 0x1 ∧ x t 1 = 0xfffffffe ∧ t.cpsr.flags.n = true ∧ t.cpsr.flags.z = false ∧ t.pc =
    0x8004#32)) = true := by decide

/-- spec/95_test_vectors.md: SMULLS R0,R1,R2,R3. -/
theorem test_smull_most_negative_squared : gives (start 0x1f 0x8000 [(2, 0x80000000), (3, 0x80000000)] []) 32
    0xE0D10392 (fun t => decide (x t 0 = 0x0 ∧ x t 1 = 0x40000000 ∧ t.pc = 0x8004#32)) = true := by decide

/-- spec/95_test_vectors.md: UMLALS R0,R1,R2,R3. -/
theorem test_umlals_wraps_to_zero : gives (start 0x1f 0x8000 [(0, 0xffffffff), (1, 0xffffffff), (2, 0x1), (3,
    0x1)] []) 32 0xE0B10392 (fun t => decide (x t 0 = 0x0 ∧ x t 1 = 0x0 ∧ t.cpsr.flags.n = false ∧ t.cpsr.flags.z
    = true ∧ t.pc = 0x8004#32)) = true := by decide

/-- spec/95_test_vectors.md: SMLALS R0,R1,R2,R3. -/
theorem test_smlal_carries_between_halves : gives (start 0x1f 0x8000 [(0, 0x0), (1, 0x80000000), (2, 0xffffffff),
    (3, 0x1)] []) 32 0xE0F10392 (fun t => decide (x t 0 = 0xffffffff ∧ x t 1 = 0x7fffffff ∧ t.pc = 0x8004#32)) =
    true := by decide

/-- spec/95_test_vectors.md: MSR CPSR_fc,R0. -/
theorem test_msr_in_user_mode_writes_flags_only : gives (start 0x10 0x8000 [(0, 0xf00000df)] []) 32 0xE129F000
    (fun t => decide (psr t = 0xf0000010 ∧ t.pc = 0x8004#32)) = true := by decide

/-- spec/95_test_vectors.md: MSR CPSR_f,R0. -/
theorem test_msr_f_writes_flags_only : gives (start 0xd3 0x8000 [(0, 0xffffffff)] []) 32 0xE128F000 (fun t =>
    decide (psr t = 0xf00000d3 ∧ t.pc = 0x8004#32)) = true := by decide

/-- spec/95_test_vectors.md: MSR SPSR_fc,R0. -/
theorem test_msr_spsr : gives (inSpsr (start 0xd2 0x8000 [(0, 0x9000003f)] []) .irq 0x0) 32 0xE169F000 (fun t =>
    decide (t.spsrs.irq = Psr.ofWord 0x9000003f#32 ∧ t.pc = 0x8004#32)) = true := by decide

/-- spec/95_test_vectors.md: MSR CPSR_c,#1Fh. -/
theorem test_msr_immediate_changes_mode : gives (inBank (inBank (start 0x400000d2 0x8000 [] []) .r13Irq 0x7f00)
    .r13 0x7e00) 32 0xE321F01F (fun t => decide (psr t = 0x4000001f ∧ t.pc = 0x8004#32)) = true := by decide

/-- spec/95_test_vectors.md: LDR R0,[R1]. -/
theorem test_ldr_rotates : gives (start 0x1f 0x8000 [(1, 0x1001)] [(0x1000, .word, 0x44332211)]) 32 0xE5910000
    (fun t => decide (x t 0 = 0x11443322 ∧ t.pc = 0x8004#32)) = true := by decide

/-- spec/95_test_vectors.md: LDR PC,[R1]. -/
theorem test_ldr_pc_branches : gives (start 0x1f 0x8000 [(1, 0x1000)] [(0x1000, .word, 0x9003), (0x1004, .word,
    0x88776655)]) 32 0xE591F000 (fun t => decide (t.pc = 0x9000#32)) = true := by decide

/-- spec/95_test_vectors.md: LDR R0,[R1,R2,LSL #2]. -/
theorem test_ldr_register_offset_shifted : gives (start 0x1f 0x8000 [(1, 0x1000), (2, 0x1)] [(0x1000, .word,
    0x44332211), (0x1004, .word, 0x88776655)]) 32 0xE7910102 (fun t => decide (x t 0 = 0x88776655 ∧ t.pc =
    0x8004#32)) = true := by decide

/-- spec/95_test_vectors.md: LDR R0,[R1],-R2. -/
theorem test_ldr_post_indexed_subtracts : gives (start 0x1f 0x8000 [(1, 0x1004), (2, 0x4)] [(0x1000, .word,
    0x44332211), (0x1004, .word, 0x88776655)]) 32 0xE6110002 (fun t => decide (x t 0 = 0x88776655 ∧ x t 1 = 0x1000
    ∧ t.pc = 0x8004#32)) = true := by decide

/-- spec/95_test_vectors.md: LDRB R0,[R1,#-1]. -/
theorem test_ldrb_zero_extends : gives (start 0x1f 0x8000 [(1, 0x1004)] [(0x1000, .word, 0x44332211), (0x1004,
    .word, 0x88776655), (0x1000, .byte, 0x11), (0x1001, .byte, 0x22), (0x1002, .byte, 0x33), (0x1003, .byte,
    0x44)]) 32 0xE5510001 (fun t => decide (x t 0 = 0x44 ∧ t.pc = 0x8004#32)) = true := by decide

/-- spec/95_test_vectors.md: STR R0,[R1]. -/
theorem test_str_forces_alignment : gives (start 0x1f 0x8000 [(0, 0xdeadbeef), (1, 0x1003)] []) 32 0xE5810000 (fun
    t => decide (t.mem.read 0x1000#32 .word = 0xdeadbeef#32 ∧ t.pc = 0x8004#32)) = true := by decide

/-- spec/95_test_vectors.md: STR PC,[R1]. -/
theorem test_str_pc_stores_pc_plus_12 : gives (start 0x1f 0x8000 [(1, 0x1000)] [(0x1000, .word, 0x44332211),
    (0x1004, .word, 0x88776655)]) 32 0xE581F000 (fun t => decide (t.mem.read 0x1000#32 .word = 0x800c#32 ∧ t.pc =
    0x8004#32)) = true := by decide

/-- spec/95_test_vectors.md: STRB R0,[R1],#1. -/
theorem test_strb_post_indexed : gives (start 0x1f 0x8000 [(0, 0x1ff), (1, 0x1003)] [(0x1000, .word, 0x44332211),
    (0x1004, .word, 0x88776655)]) 32 0xE4C10001 (fun t => decide (x t 1 = 0x1004 ∧ t.mem.read 0x1003#32 .byte =
    0xff#32 ∧ t.pc = 0x8004#32)) = true := by decide

/-- spec/95_test_vectors.md: LDRT R0,[R1],#4. -/
theorem test_ldrt_writes_back : gives (start 0x13 0x8000 [(1, 0x1000)] [(0x1000, .word, 0x44332211), (0x1004,
    .word, 0x88776655)]) 32 0xE4B10004 (fun t => decide (x t 0 = 0x44332211 ∧ x t 1 = 0x1004 ∧ t.pc = 0x8004#32))
    = true := by decide

/-- spec/95_test_vectors.md: STRH R0,[R1],#2. -/
theorem test_strh_post_indexed : gives (start 0x1f 0x8000 [(0, 0x1234abcd), (1, 0x1000)] [(0x1000, .word,
    0x84332211)]) 32 0xE0C100B2 (fun t => decide (x t 1 = 0x1002 ∧ t.mem.read 0x1000#32 .half = 0xabcd#32 ∧ t.pc =
    0x8004#32)) = true := by decide

/-- spec/95_test_vectors.md: LDRH R0,[R1]. -/
theorem test_ldrh_odd_rotates : gives (start 0x1f 0x8000 [(1, 0x1001)] [(0x1000, .byte, 0x11), (0x1001, .byte,
    0x22), (0x1002, .byte, 0x33), (0x1003, .byte, 0x84)]) 32 0xE1D100B0 (fun t => decide (x t 0 = 0x11000022 ∧
    t.pc = 0x8004#32)) = true := by decide

/-- spec/95_test_vectors.md: LDRH R0,[R1,-R2]. -/
theorem test_ldrh_register_offset : gives (start 0x1f 0x8000 [(1, 0x1004), (2, 0x4)] [(0x1000, .word,
    0x84332211)]) 32 0xE11100B2 (fun t => decide (x t 0 = 0x2211 ∧ t.pc = 0x8004#32)) = true := by decide

/-- spec/95_test_vectors.md: LDRSB R0,[R1,#-0FFh]. -/
theorem test_ldrsb_extends : gives (start 0x1f 0x8000 [(1, 0x1102)] [(0x1000, .word, 0x84332211)]) 32 0xE1510FDF
    (fun t => decide (x t 0 = 0xffffff84 ∧ t.pc = 0x8004#32)) = true := by decide

/-- spec/95_test_vectors.md: LDRSH R0,[R1]. -/
theorem test_ldrsh_odd_reads_a_byte : gives (start 0x1f 0x8000 [(1, 0x1001)] [(0x1000, .byte, 0x11), (0x1001,
    .byte, 0x22), (0x1002, .byte, 0x33), (0x1003, .byte, 0x84)]) 32 0xE1D100F0 (fun t => decide (x t 0 = 0x22 ∧
    t.pc = 0x8004#32)) = true := by decide

/-- spec/95_test_vectors.md: STMDB R5!,{R0-R2}. -/
theorem test_stmdb_addresses : gives (start 0x1f 0x8000 [(0, 0xa0), (1, 0xa1), (2, 0xa2), (5, 0x2000)] [(0x2000,
    .word, 0xb0), (0x2004, .word, 0xb1), (0x1ff8, .word, 0xc0), (0x1ffc, .word, 0xc1)]) 32 0xE9250007 (fun t =>
    decide (x t 5 = 0x1ff4 ∧ t.mem.read 0x1ff4#32 .word = 0xa0#32 ∧ t.mem.read 0x1ff8#32 .word = 0xa1#32 ∧
    t.mem.read 0x1ffc#32 .word = 0xa2#32 ∧ t.pc = 0x8004#32)) = true := by decide

/-- spec/95_test_vectors.md: STMDB R5!,{R0,R5}. -/
theorem test_stmdb_stores_the_new_base : gives (start 0x1f 0x8000 [(0, 0xa0), (5, 0x2000)] [(0x2000, .word, 0xb0),
    (0x2004, .word, 0xb1), (0x1ff8, .word, 0xc0), (0x1ffc, .word, 0xc1)]) 32 0xE9250021 (fun t => decide (x t 5 =
    0x1ff8 ∧ t.mem.read 0x1ff8#32 .word = 0xa0#32 ∧ t.mem.read 0x1ffc#32 .word = 0x1ff8#32 ∧ t.pc = 0x8004#32)) =
    true := by decide

/-- spec/95_test_vectors.md: LDMIA R5!,{R0,R1,PC}. -/
theorem test_ldmia_pc_branches : gives (start 0x1f 0x8000 [(5, 0x2000)] [(0x2000, .word, 0xb0), (0x2004, .word,
    0xb1), (0x1ff8, .word, 0xc0), (0x1ffc, .word, 0xc1), (0x2008, .word, 0x9003)]) 32 0xE8B58003 (fun t => decide
    (x t 0 = 0xb0 ∧ x t 1 = 0xb1 ∧ x t 5 = 0x200c ∧ t.pc = 0x9000#32)) = true := by decide

/-- spec/95_test_vectors.md: LDMDB R5!,{R0,R1}. -/
theorem test_ldmdb_addresses : gives (start 0x1f 0x8000 [(5, 0x2000)] [(0x2000, .word, 0xb0), (0x2004, .word,
    0xb1), (0x1ff8, .word, 0xc0), (0x1ffc, .word, 0xc1)]) 32 0xE9350003 (fun t => decide (x t 0 = 0xc0 ∧ x t 1 =
    0xc1 ∧ x t 5 = 0x1ff8 ∧ t.pc = 0x8004#32)) = true := by decide

/-- spec/95_test_vectors.md: LDMIA R5,{R13,R14}^. -/
theorem test_ldm_user_bank : gives (inBank (inBank (start 0xd3 0x8000 [(5, 0x2000)] [(0x2000, .word, 0xb0),
    (0x2004, .word, 0xb1), (0x1ff8, .word, 0xc0), (0x1ffc, .word, 0xc1)]) .r13Svc 0x11111111) .r14Svc 0x22222222)
    32 0xE8D56000 (fun t => decide (t.regs.r13 = 0xb0#32 ∧ t.regs.r14 = 0xb1#32 ∧ t.regs.r13Svc = 0x11111111#32 ∧
    t.regs.r14Svc = 0x22222222#32 ∧ t.pc = 0x8004#32)) = true := by decide

/-- spec/95_test_vectors.md: SWP R0,R2,[R1]. -/
theorem test_swp_rotates_the_read_only : gives (start 0x1f 0x8000 [(1, 0x1002), (2, 0xaabbccdd)] [(0x1000, .word,
    0x44332211)]) 32 0xE1010092 (fun t => decide (x t 0 = 0x22114433 ∧ t.mem.read 0x1000#32 .word = 0xaabbccdd#32
    ∧ t.pc = 0x8004#32)) = true := by decide

/-- spec/95_test_vectors.md: SWPB R0,R1,[R2]. -/
theorem test_swpb : gives (start 0x1f 0x8000 [(1, 0x1ff), (2, 0x1003)] [(0x1000, .word, 0x44332211)]) 32
    0xE1420091 (fun t => decide (x t 0 = 0x44 ∧ t.mem.read 0x1003#32 .byte = 0xff#32 ∧ t.pc = 0x8004#32)) = true
    := by decide

/-- spec/95_test_vectors.md: MRC P15,0,R0,C0,C0,0. -/
theorem test_mrc_absent_coprocessor : gives (start 0x60000010 0x8000 [] [(0x1000, .word, 0x44332211)]) 32
    0xEE100F10 (fun t => decide (t.regs.r14Und = 0x8004#32 ∧ t.spsrs.und = Psr.ofWord 0x60000010#32 ∧ psr t =
    0x6000009b ∧ t.pc = 0x4#32)) = true := by decide

/-- spec/95_test_vectors.md: LDC P1,C2,[R3,#16]. -/
theorem test_ldc_absent_coprocessor : gives (start 0x53 0x8000 [(3, 0x1000)] [(0x1000, .word, 0x44332211)]) 32
    0xED932104 (fun t => decide (x t 3 = 0x1000 ∧ t.regs.r14Und = 0x8004#32 ∧ t.spsrs.und = Psr.ofWord 0x53#32 ∧
    psr t = 0xdb ∧ t.pc = 0x4#32)) = true := by decide

/-- spec/95_test_vectors.md: LSL R0,R1,#0. -/
theorem test_thumb_lsl_0_keeps_carry : gives (start 0x2000003f 0x8000100 [(1, 0x80000000)] []) 16 0x0008 (fun t =>
    decide (x t 0 = 0x80000000 ∧ psr t = 0xa000003f ∧ t.pc = 0x8000102#32)) = true := by decide

/-- spec/95_test_vectors.md: LSR R0,R1,#32 (field 0). -/
theorem test_thumb_lsr_32 : gives (start 0x2000003f 0x8000100 [(1, 0x7fffffff)] []) 16 0x0808 (fun t => decide (x
    t 0 = 0x0 ∧ psr t = 0x4000003f ∧ t.pc = 0x8000102#32)) = true := by decide

/-- spec/95_test_vectors.md: ASR R0,R1,#32 (field 0). -/
theorem test_thumb_asr_32 : gives (start 0x3f 0x8000100 [(1, 0x80000000)] []) 16 0x1008 (fun t => decide (x t 0 =
    0xffffffff ∧ psr t = 0xa000003f ∧ t.pc = 0x8000102#32)) = true := by decide

/-- spec/95_test_vectors.md: ADD R0,R1,R2. -/
theorem test_thumb_add_carry : gives (start 0x3f 0x8000100 [(1, 0xffffffff), (2, 0x1)] []) 16 0x1888 (fun t =>
    decide (x t 0 = 0x0 ∧ psr t = 0x6000003f ∧ t.pc = 0x8000102#32)) = true := by decide

/-- spec/95_test_vectors.md: SUB R0,R1,R2. -/
theorem test_thumb_sub_borrow : gives (start 0x3f 0x8000100 [(1, 0x0), (2, 0x1)] []) 16 0x1A88 (fun t => decide (x
    t 0 = 0xffffffff ∧ psr t = 0x8000003f ∧ t.pc = 0x8000102#32)) = true := by decide

/-- spec/95_test_vectors.md: ADD R0,R1,#0 (MOV R0,R1). -/
theorem test_thumb_add_0_clears_carry : gives (start 0xf000003f 0x8000100 [(1, 0x0)] []) 16 0x1C08 (fun t =>
    decide (x t 0 = 0x0 ∧ psr t = 0x4000003f ∧ t.pc = 0x8000102#32)) = true := by decide

/-- spec/95_test_vectors.md: SUB R0,R1,#7. -/
theorem test_thumb_sub_immediate : gives (start 0x3f 0x8000100 [(1, 0x7)] []) 16 0x1FC8 (fun t => decide (x t 0 =
    0x0 ∧ psr t = 0x6000003f ∧ t.pc = 0x8000102#32)) = true := by decide

/-- spec/95_test_vectors.md: MOV R0,#0. -/
theorem test_thumb_mov_keeps_carry : gives (start 0xb000003f 0x8000100 [(0, 0x5)] []) 16 0x2000 (fun t => decide
    (x t 0 = 0x0 ∧ psr t = 0x7000003f ∧ t.pc = 0x8000102#32)) = true := by decide

/-- spec/95_test_vectors.md: CMP R0,#1. -/
theorem test_thumb_cmp_overflow : gives (start 0x3f 0x8000100 [(0, 0x80000000)] []) 16 0x2801 (fun t => decide
    (psr t = 0x3000003f ∧ t.pc = 0x8000102#32)) = true := by decide

/-- spec/95_test_vectors.md: ADD R0,#0FFh. -/
theorem test_thumb_add_immediate_overflow : gives (start 0x3f 0x8000100 [(0, 0x7fffff01)] []) 16 0x30FF (fun t =>
    decide (x t 0 = 0x80000000 ∧ psr t = 0x9000003f ∧ t.pc = 0x8000102#32)) = true := by decide

/-- spec/95_test_vectors.md: SUB R0,#1. -/
theorem test_thumb_sub_immediate_borrow : gives (start 0x3f 0x8000100 [(0, 0x0)] []) 16 0x3801 (fun t => decide (x
    t 0 = 0xffffffff ∧ psr t = 0x8000003f ∧ t.pc = 0x8000102#32)) = true := by decide

/-- spec/95_test_vectors.md: LSL R0,R1. -/
theorem test_thumb_lsl_by_32 : gives (start 0x3f 0x8000100 [(0, 0x80000001), (1, 0x20)] []) 16 0x4088 (fun t =>
    decide (x t 0 = 0x0 ∧ psr t = 0x6000003f ∧ t.pc = 0x8000102#32)) = true := by decide

/-- spec/95_test_vectors.md: LSR R0,R1. -/
theorem test_thumb_lsr_by_33 : gives (start 0x3f 0x8000100 [(0, 0x80000001), (1, 0x21)] []) 16 0x40C8 (fun t =>
    decide (x t 0 = 0x0 ∧ psr t = 0x4000003f ∧ t.pc = 0x8000102#32)) = true := by decide

/-- spec/95_test_vectors.md: ASR R0,R1. -/
theorem test_thumb_asr_by_32 : gives (start 0x3f 0x8000100 [(0, 0x80000001), (1, 0x20)] []) 16 0x4108 (fun t =>
    decide (x t 0 = 0xffffffff ∧ psr t = 0xa000003f ∧ t.pc = 0x8000102#32)) = true := by decide

/-- spec/95_test_vectors.md: ROR R0,R1. -/
theorem test_thumb_ror_by_33 : gives (start 0x3f 0x8000100 [(0, 0x80000001), (1, 0x21)] []) 16 0x41C8 (fun t =>
    decide (x t 0 = 0xc0000000 ∧ psr t = 0xa000003f ∧ t.pc = 0x8000102#32)) = true := by decide

/-- spec/95_test_vectors.md: ADC R0,R1. -/
theorem test_thumb_adc_overflow : gives (start 0x2000003f 0x8000100 [(0, 0x7fffffff), (1, 0x0)] []) 16 0x4148 (fun
    t => decide (x t 0 = 0x80000000 ∧ psr t = 0x9000003f ∧ t.pc = 0x8000102#32)) = true := by decide

/-- spec/95_test_vectors.md: SBC R0,R1. -/
theorem test_thumb_sbc_borrow : gives (start 0x3f 0x8000100 [(0, 0x0), (1, 0x0)] []) 16 0x4188 (fun t => decide (x
    t 0 = 0xffffffff ∧ psr t = 0x8000003f ∧ t.pc = 0x8000102#32)) = true := by decide

/-- spec/95_test_vectors.md: TST R0,R1. -/
theorem test_thumb_tst_keeps_carry : gives (start 0x3000003f 0x8000100 [(0, 0x80000000), (1, 0xffffffff)] []) 16
    0x4208 (fun t => decide (psr t = 0xb000003f ∧ t.pc = 0x8000102#32)) = true := by decide

/-- spec/95_test_vectors.md: NEG R0,R1. -/
theorem test_thumb_neg : gives (start 0x3f 0x8000100 [(1, 0x7fffffff)] []) 16 0x4248 (fun t => decide (x t 0 =
    0x80000001 ∧ psr t = 0x8000003f ∧ t.pc = 0x8000102#32)) = true := by decide

/-- spec/95_test_vectors.md: CMP R0,R1. -/
theorem test_thumb_cmp_register : gives (start 0x3f 0x8000100 [(0, 0x0), (1, 0x80000000)] []) 16 0x4288 (fun t =>
    decide (psr t = 0x9000003f ∧ t.pc = 0x8000102#32)) = true := by decide

/-- spec/95_test_vectors.md: CMN R0,R1. -/
theorem test_thumb_cmn : gives (start 0x3f 0x8000100 [(0, 0x7fffffff), (1, 0x1)] []) 16 0x42C8 (fun t => decide
    (psr t = 0x9000003f ∧ t.pc = 0x8000102#32)) = true := by decide

/-- spec/95_test_vectors.md: MUL R0,R0. -/
theorem test_thumb_mul_of_itself : gives (start 0x1000003f 0x8000100 [(0, 0xffff)] []) 16 0x4340 (fun t => decide
    (x t 0 = 0xfffe0001 ∧ t.cpsr.flags.n = true ∧ t.cpsr.flags.z = false ∧ t.pc = 0x8000102#32)) = true := by
    decide

/-- spec/95_test_vectors.md: MVN R0,R0. -/
theorem test_thumb_mvn : gives (start 0x3f 0x8000100 [(0, 0xffffffff)] []) 16 0x43C0 (fun t => decide (x t 0 = 0x0
    ∧ psr t = 0x4000003f ∧ t.pc = 0x8000102#32)) = true := by decide

/-- spec/95_test_vectors.md: ADD R8,R9. -/
theorem test_thumb_add_high : gives (start 0xf000003f 0x8000100 [(8, 0xffffffff), (9, 0x2)] []) 16 0x44C8 (fun t
    => decide (x t 8 = 0x1 ∧ psr t = 0xf000003f ∧ t.pc = 0x8000102#32)) = true := by decide

/-- spec/95_test_vectors.md: ADD R0,PC. -/
theorem test_thumb_add_pc_as_source : gives (start 0x3f 0x8000102 [(0, 0x1)] []) 16 0x4478 (fun t => decide (x t 0
    = 0x8000107 ∧ t.pc = 0x8000104#32)) = true := by decide

/-- spec/95_test_vectors.md: ADD PC,R0. -/
theorem test_thumb_add_to_pc : gives (start 0x3f 0x8000100 [(0, 0x11)] []) 16 0x4487 (fun t => decide (t.pc =
    0x8000114#32)) = true := by decide

/-- spec/95_test_vectors.md: CMP R0,R8. -/
theorem test_thumb_cmp_high : gives (start 0x3f 0x8000100 [(0, 0x1), (8, 0x2)] []) 16 0x4540 (fun t => decide (psr
    t = 0x8000003f ∧ t.pc = 0x8000102#32)) = true := by decide

/-- spec/95_test_vectors.md: BX R0. -/
theorem test_thumb_bx_to_arm : gives (start 0x3f 0x8000100 [(0, 0x8000202)] []) 16 0x4700 (fun t => decide (psr t
    = 0x1f ∧ t.pc = 0x8000200#32)) = true := by decide

/-- spec/95_test_vectors.md: BX PC. -/
theorem test_thumb_bx_pc : gives (start 0x3f 0x8000102 [] []) 16 0x4778 (fun t => decide (psr t = 0x1f ∧ t.pc =
    0x8000104#32)) = true := by decide

/-- spec/95_test_vectors.md: LDR R0,[PC,#4]. -/
theorem test_thumb_ldr_pc_relative : gives (start 0x3f 0x8000102 [] [(0x8000108, .word, 0x22222222)]) 16 0x4801
    (fun t => decide (x t 0 = 0x22222222 ∧ t.pc = 0x8000104#32)) = true := by decide

/-- spec/95_test_vectors.md: LDR R0,[R1,R2]. -/
theorem test_thumb_ldr_rotates : gives (start 0x3f 0x8000100 [(1, 0x1000), (2, 0x3)] [(0x1000, .word, 0x44332211),
    (0x1004, .word, 0x88776655)]) 16 0x5888 (fun t => decide (x t 0 = 0x33221144 ∧ t.pc = 0x8000102#32)) = true :=
    by decide

/-- spec/95_test_vectors.md: STR R0,[R1,R2]. -/
theorem test_thumb_str_forces_alignment : gives (start 0x3f 0x8000100 [(0, 0xaabbccdd), (1, 0x1001), (2, 0x2)]
    [(0x1000, .word, 0x44332211), (0x1004, .word, 0x88776655)]) 16 0x5088 (fun t => decide (t.mem.read 0x1000#32
    .word = 0xaabbccdd#32 ∧ t.pc = 0x8000102#32)) = true := by decide

/-- spec/95_test_vectors.md: LDRH R0,[R1,R2]. -/
theorem test_thumb_ldrh_odd_rotates : gives (start 0x3f 0x8000100 [(1, 0x1000), (2, 0x1)] [(0x1000, .word,
    0x44332211), (0x1004, .word, 0x88776655), (0x1000, .byte, 0x11), (0x1001, .byte, 0x22)]) 16 0x5A88 (fun t =>
    decide (x t 0 = 0x11000022 ∧ t.pc = 0x8000102#32)) = true := by decide

/-- spec/95_test_vectors.md: LDSH R0,[R1,R2]. -/
theorem test_thumb_ldsh_odd_reads_a_byte : gives (start 0x3f 0x8000100 [(1, 0x1004), (2, 0x3)] [(0x1000, .word,
    0x44332211), (0x1004, .word, 0x88776655)]) 16 0x5E88 (fun t => decide (x t 0 = 0xffffff88 ∧ t.pc =
    0x8000102#32)) = true := by decide

/-- spec/95_test_vectors.md: LDSB R0,[R1,R2]. -/
theorem test_thumb_ldsb : gives (start 0x3f 0x8000100 [(1, 0x1004), (2, 0x0)] [(0x1000, .word, 0x44332211),
    (0x1004, .word, 0x88776655)]) 16 0x5688 (fun t => decide (x t 0 = 0x55 ∧ t.pc = 0x8000102#32)) = true := by
    decide

/-- spec/95_test_vectors.md: LDRB R0,[R1,#7]. -/
theorem test_thumb_ldrb_offset : gives (start 0x3f 0x8000100 [(1, 0x1000)] [(0x1000, .word, 0x44332211), (0x1004,
    .word, 0x88776655), (0x1007, .byte, 0x88)]) 16 0x79C8 (fun t => decide (x t 0 = 0x88 ∧ t.pc = 0x8000102#32)) =
    true := by decide

/-- spec/95_test_vectors.md: STRH R0,[R1,#62]. -/
theorem test_thumb_strh_offset : gives (start 0x3f 0x8000100 [(0, 0xbeef), (1, 0x1000)] [(0x1000, .word,
    0x44332211), (0x1004, .word, 0x88776655)]) 16 0x87C8 (fun t => decide (t.mem.read 0x103e#32 .half = 0xbeef#32
    ∧ t.pc = 0x8000102#32)) = true := by decide

/-- spec/95_test_vectors.md: LDR R0,[SP,#1020]. -/
theorem test_thumb_ldr_sp : gives (start 0x3f 0x8000100 [(13, 0xc04)] [(0x1000, .word, 0x44332211), (0x1004,
    .word, 0x88776655)]) 16 0x98FF (fun t => decide (x t 0 = 0x44332211 ∧ t.pc = 0x8000102#32)) = true := by
    decide

/-- spec/95_test_vectors.md: STR R7,[SP,#0]. -/
theorem test_thumb_str_sp : gives (start 0x3f 0x8000100 [(7, 0x77777777), (13, 0x1002)] [(0x1000, .word,
    0x44332211), (0x1004, .word, 0x88776655)]) 16 0x9700 (fun t => decide (t.mem.read 0x1000#32 .word =
    0x77777777#32 ∧ t.pc = 0x8000102#32)) = true := by decide

/-- spec/95_test_vectors.md: ADD R0,PC,#1020. -/
theorem test_thumb_add_pc : gives (start 0x3f 0x8000102 [] [(0x1000, .word, 0x44332211), (0x1004, .word,
    0x88776655)]) 16 0xA0FF (fun t => decide (x t 0 = 0x8000500 ∧ t.pc = 0x8000104#32)) = true := by decide

/-- spec/95_test_vectors.md: ADD SP,#-508. -/
theorem test_thumb_sub_sp_wraps : gives (start 0x3f 0x8000100 [(13, 0x1f0)] [(0x1000, .word, 0x44332211), (0x1004,
    .word, 0x88776655)]) 16 0xB0FF (fun t => decide (x t 13 = 0xfffffff4 ∧ t.pc = 0x8000102#32)) = true := by
    decide

/-- spec/95_test_vectors.md: PUSH {R0,R2,LR}. -/
theorem test_thumb_push_lr : gives (start 0x3f 0x8000100 [(0, 0x1), (2, 0x2), (14, 0x8000105), (13, 0x3007f00)]
    []) 16 0xB505 (fun t => decide (x t 13 = 0x3007ef4 ∧ t.mem.read 0x3007ef4#32 .word = 0x1#32 ∧ t.mem.read
    0x3007ef8#32 .word = 0x2#32 ∧ t.mem.read 0x3007efc#32 .word = 0x8000105#32 ∧ t.pc = 0x8000102#32)) = true :=
    by decide

/-- spec/95_test_vectors.md: POP {R2-R4,PC}. -/
theorem test_thumb_pop_pc : gives (start 0x3f 0x8000100 [(13, 0x3007ef0)] [(0x3007ef0, .word, 0xa), (0x3007ef4,
    .word, 0xb), (0x3007ef8, .word, 0xc), (0x3007efc, .word, 0x8000105)]) 16 0xBD1C (fun t => decide (x t 2 = 0xa
    ∧ x t 3 = 0xb ∧ x t 4 = 0xc ∧ x t 13 = 0x3007f00 ∧ t.pc = 0x8000104#32)) = true := by decide

/-- spec/95_test_vectors.md: STMIA R1!,{R0,R1}. -/
theorem test_thumb_stmia_stores_the_new_base : gives (start 0x3f 0x8000100 [(0, 0xa0), (1, 0x2000)] [(0x2000,
    .word, 0xb0), (0x2004, .word, 0xb1)]) 16 0xC103 (fun t => decide (x t 1 = 0x2008 ∧ t.mem.read 0x2000#32 .word
    = 0xa0#32 ∧ t.mem.read 0x2004#32 .word = 0x2008#32 ∧ t.pc = 0x8000102#32)) = true := by decide

/-- spec/95_test_vectors.md: LDMIA R1!,{R0,R1}. -/
theorem test_thumb_ldmia_loaded_base_wins : gives (start 0x3f 0x8000100 [(1, 0x2000)] [(0x2000, .word, 0xb0),
    (0x2004, .word, 0xb1)]) 16 0xC903 (fun t => decide (x t 0 = 0xb0 ∧ x t 1 = 0xb1 ∧ t.pc = 0x8000102#32)) = true
    := by decide

/-- spec/95_test_vectors.md: BEQ $+4+254. -/
theorem test_thumb_beq_taken : gives (start 0x4000003f 0x8000100 [] []) 16 0xD07F (fun t => decide (t.pc =
    0x8000202#32)) = true := by decide

/-- spec/95_test_vectors.md: BEQ $+4-256. -/
theorem test_thumb_beq_not_taken : gives (start 0x3f 0x8000100 [] []) 16 0xD080 (fun t => decide (t.pc =
    0x8000102#32)) = true := by decide

/-- spec/95_test_vectors.md: BGT $+4+0. -/
theorem test_thumb_bgt_taken : gives (start 0x9000003f 0x8000100 [] []) 16 0xDC00 (fun t => decide (t.pc =
    0x8000104#32)) = true := by decide

/-- spec/95_test_vectors.md: SWI 0FFh. -/
theorem test_thumb_swi : gives (start 0x600000b2 0x8000100 [] []) 16 0xDFFF (fun t => decide (t.regs.r14Svc =
    0x8000102#32 ∧ t.spsrs.svc = Psr.ofWord 0x600000b2#32 ∧ psr t = 0x60000093 ∧ t.pc = 0x8#32)) = true := by
    decide

/-- spec/95_test_vectors.md: B $+4-2048. -/
theorem test_thumb_b_backwards : gives (start 0x3f 0x8000100 [] []) 16 0xE400 (fun t => decide (t.pc =
    0x7fff904#32)) = true := by decide

/-- spec/95_test_vectors.md: BL first half, nn=3FFh. -/
theorem test_thumb_bl_first : gives (start 0x3f 0x8000100 [] []) 16 0xF3FF (fun t => decide (x t 14 = 0x83ff104 ∧
    t.pc = 0x8000102#32)) = true := by decide

/-- spec/95_test_vectors.md: BL second half, nn=7FFh. -/
theorem test_thumb_bl_second : gives (start 0x3f 0x8000102 [(14, 0x83ff104)] []) 16 0xFFFF (fun t => decide (x t
    14 = 0x8000105 ∧ t.pc = 0x8400102#32)) = true := by decide

/-! ## Opcodes the spec's vectors leave out, by hand from R191, R202, R204, R205, R198, R201 -/

/-- R191: EORS R0,R0,R1. -/
theorem test_eors_of_itself : gives (start 0x3000001f 0x8000 [(0, 0xAAAAAAAA), (1, 0xAAAAAAAA)] []) 32 0xE0300001
    (fun t => decide (x t 0 = 0 ∧ psr t = 0x7000001f)) = true := by decide

/-- R202: ORRS R0,R0,R1. -/
theorem test_orrs : gives (start 0x1f 0x8000 [(0, 0x80000001), (1, 0x00F0)] []) 32 0xE1900001
    (fun t => decide (x t 0 = 0x800000F1 ∧ psr t = 0x8000001f)) = true := by decide

/-- R204: BICS R0,R0,R1. -/
theorem test_bics : gives (start 0x1f 0x8000 [(0, 0xFF), (1, 0xFFFFFF0F)] []) 32 0xE1D00001
    (fun t => decide (x t 0 = 0xF0 ∧ psr t = 0x1f)) = true := by decide

/-- R205: MVNS R0,R1. -/
theorem test_mvns : gives (start 0x1f 0x8000 [(1, 0)] []) 32 0xE1F00001
    (fun t => decide (x t 0 = 0xFFFFFFFF ∧ psr t = 0x8000001f)) = true := by decide

/-- R198: TST R0,R1. -/
theorem test_tst : gives (start 0x1f 0x8000 [(0, 0xF0), (1, 0x0F)] []) 32 0xE1100001
    (fun t => decide (x t 0 = 0xF0 ∧ psr t = 0x4000001f)) = true := by decide

/-- R201: CMN R0,R1: the flags of the sum. -/
theorem test_cmn : gives (start 0x1f 0x8000 [(0, 0xFFFFFFFF), (1, 1)] []) 32 0xE1700001
    (fun t => decide (x t 0 = 0xFFFFFFFF ∧ psr t = 0x6000001f)) = true := by decide

/-- R317: LDMIA R13!,{R0,PC}^ in Supervisor mode returns with the whole SPSR. -/
theorem test_ldm_pc_returns : gives (inSpsr (start 0x93 0x8000 [(13, 0x2000)] [(0x2000, .word, 7),
    (0x2004, .word, 0x8000103)]) .svc 0x4000003f) 32 0xE8FD8001
    (fun t => decide (x t 0 = 7 ∧ t.regs.r13Svc = 0x2008#32 ∧ psr t = 0x4000003f ∧ t.pc = 0x8000102#32)) = true := by
  decide

/-- R318: STMIA R5,{R13}^ in Supervisor mode stores the User R13. -/
theorem test_stm_user_bank : gives (inBank (inBank (start 0x93 0x8000 [(5, 0x2000)] []) .r13Svc 0x11) .r13 0x22) 32
    0xE8C52000 (fun t => decide (t.mem.read 0x2000#32 .word = 0x22#32 ∧ t.pc = 0x8004#32)) = true := by decide

/-- R353, R355: with P1 attached, MCR P1,0,R0,C2,C3,4 sends it R0. -/
theorem test_mcr_present : gives (onPlatform (start 0x1f 0x8000 [(0, 0x55)] []) [] [1#4]) 32 0xEE020193
    (fun t => decide (t.coprocLog = [.mcr 1#4 ⟨0#3, 2#4, 3#4, 4#3⟩ 0x55#32] ∧ t.pc = 0x8004#32)) = true := by decide

/-! ## Refusals -/

/-- Each code is refused for the reason beside it (spec/93_implementation_defined.md part A). -/
theorem test_refusals_arm : refusesAll (start 0x1f 0x8000 [(1, 0x1000)] []) 32 [
    (0xF0000000, .cond1111), (0xE12FFF1F, .bxR15), (0xE1B00F11, .shiftRegisterR15), (0xE310F001, .comparePForm),
    (0xE3101001, .mustBeField), (0xE3A10001, .mustBeField), (0xE1B0F00E, .noSpsr), (0xE0000190, .mulRdEqRm),
    (0xE00F0291, .r15InMultiply), (0xE0800392, .longMultiplyEqualRegs), (0xE0810390, .longMultiplyEqualRegs),
    (0xE10FF000, .mrsRdR15), (0xE129F00F, .msrRmR15), (0xE14F0000, .noSpsr), (0xE5B11004, .writebackRnEqRd),
    (0xE5BF0004, .writebackR15), (0xE791000F, .rmR15InTransfer), (0xE1C100D0, .armv5Encoding),
    (0xE0D000B2, .writebackRnEqRd), (0xE8950000, .emptyRegisterList), (0xE89F0001, .blockBaseR15),
    (0xE8FD8001, .noSpsr), (0xE102F091, .r15InSwap), (0xE16F0F11, .armv5Encoding)] = true := by decide

/-- R39, R246, R318 in Supervisor mode. -/
theorem test_refusals_supervisor : refusesAll (start 0xd3 0x8000 [(0, 0x33), (1, 0x14)] []) 32 [
    (0xE121F000, .tChangedByMsr), (0xE121F001, .illegalMode), (0xE8F52000, .userBankWriteback),
    (0xE321F014, .illegalMode)] = true := by decide

/-- R135, R420, R428, R504 in THUMB state. -/
theorem test_refusals_thumb : refusesAll (start 0x3f 0x8000100 [] []) 16 [
    (0x4508, .thumbReserved), (0x4608, .thumbReserved), (0x4701, .mustBeField), (0x4780, .thumbReserved),
    (0xB400, .emptyRegisterList), (0xBC00, .emptyRegisterList), (0xC900, .emptyRegisterList),
    (0xDE00, .thumbReserved), (0xBE00, .thumbReserved), (0xE800, .thumbReserved)] = true := by decide

/-- R84: an instruction that the one before it stored to. -/
theorem test_refuses_a_stale_fetch : stops { start 0x1f 0x8000 [] [(0x8000, .word, 0xE1A00000)] with
    window := ⟨[], [⟨0x8000#32, 4⟩]⟩ } .staleFetch = true := by decide

/-- R620: MOV R0,R14 right after an LDM of the user bank. -/
theorem test_refuses_a_banked_read : stops { start 0x93 0x8000 [] [(0x8000, .word, 0xE1A0000E)] with
    userLdm := true } .bankedReadAfterUserLdm = true := by decide

/-- The switch of R46: a word with condition 1111b does nothing. -/
theorem test_never_condition : steps { start 0x1f 0x8000 [] [(0x8000, .word, 0xF0000000)] with
    platform := ⟨[], [], [], true⟩ } (fun t => decide (t.pc = 0x8004#32)) = true := by decide

/-! ## Events -/

/-- R563: IRQ from THUMB state. -/
theorem test_irq : steps { start 0x3f 0x8000102 [] [] with inputs := [⟨false, .high, .low⟩] }
    (fun t => decide (psr t = 0x92 ∧ t.pc = 0x18#32 ∧ t.regs.r14Irq = 0x8000106#32 ∧
      t.spsrs.irq = Psr.ofWord 0x3f#32 ∧ t.inputs = [])) = true := by decide

/-- R562, R565: FIQ goes before IRQ and sets F. -/
theorem test_fiq_before_irq : steps { start 0x1f 0x8000 [] [] with inputs := [⟨false, .low, .low⟩] }
    (fun t => decide (psr t = 0xd1 ∧ t.pc = 0x1C#32 ∧ t.regs.r14Fiq = 0x8004#32)) = true := by decide

/-- R563: a masked IRQ is not taken (MOV R0,R0 runs). -/
theorem test_masked_irq : steps { start 0x9f 0x8000 [] [(0x8000, .word, 0xE1A00000)] with
    inputs := [⟨false, .high, .low⟩] } (fun t => decide (psr t = 0x9f ∧ t.pc = 0x8004#32)) = true := by decide

/-- R600, R601: the reset input from THUMB state in User mode. -/
theorem test_reset_input : steps { start 0x30 0x8000100 [] [] with inputs := [⟨true, .low, .low⟩] }
    (fun t => decide (t.pc = 0#32 ∧ t.cpsr.mode = .svc ∧ t.cpsr.i = true ∧ t.cpsr.f = true ∧ t.cpsr.t = false)) =
      true := by decide

/-- R551: an aborted fetch. -/
theorem test_prefetch_abort : steps (onPlatform (start 0x10 0x8000 [] []) [⟨.fetch, .word, true, 0x8000#32, 0x8003#32⟩] [])
    (fun t => decide (psr t = 0x97 ∧ t.pc = 0x0C#32 ∧ t.regs.r14Abt = 0x8004#32 ∧ t.spsrs.abt = Psr.ofWord 0x10#32)) =
      true := by decide

/-- R552: LDR R0,[R1],#4 whose read aborts: the base is written back, R0 is not. -/
theorem test_data_abort : steps (onPlatform (start 0x10 0x8000 [(0, 9), (1, 0x1000)] [(0x8000, .word, 0xE4910004)])
    [⟨.read, .word, true, 0x1000#32, 0x1003#32⟩] [])
    (fun t => decide (psr t = 0x97 ∧ t.pc = 0x10#32 ∧ t.regs.r14Abt = 0x8008#32 ∧ t.regs.r1 = 0x1004#32 ∧
      t.regs.r0 = 9#32)) = true := by decide

/-- R264: LDR R0,[R1] with R1 = 1003h aborts where the platform aborts 1003h, not where it aborts 1000h. -/
theorem test_abort_address :
    [0x1003, 0x1000].map (fun a => steps (onPlatform (start 0x10 0x8000 [(1, 0x1003)] [(0x8000, .word, 0xE5910000)])
      [⟨.read, .word, true, BitVec.ofNat 32 a, BitVec.ofNat 32 a⟩] []) (fun t => decide (t.pc = 0x10#32))) =
    [true, false] := by decide

/-- R552, R620: LDMIA R1,{R13}^ whose read aborts in Supervisor mode: Abort mode, the mark of R620 left, and the
handler's first instruction, MOV R0,R14, refused. -/
theorem test_aborted_user_ldm : steps (onPlatform (start 0x93 0x8000 [(1, 0x1000)] [(0x8000, .word, 0xE8D12000),
    (0x10, .word, 0xE1A0000E)]) [⟨.read, .word, false, 0x1000#32, 0x1003#32⟩] [])
    (fun t => decide (psr t = 0x97) && t.userLdm && stops t .bankedReadAfterUserLdm) = true := by decide

/-! ## Well-formedness: one violation for each check -/

theorem test_wellFormed_bx : (Instr.bx .al 15#4).wellFormed = false := by decide
theorem test_wellFormed_shift_register : (Instr.movShReg .al true 0#4 ⟨1#4, .lsl, 15#4⟩).wellFormed = false := by decide
theorem test_wellFormed_multiply : [Instr.mul .al false 0#4 1#4 0#4, .mul .al false 15#4 1#4 2#4,
    .mla .al false 0#4 15#4 1#4 2#4].all (fun i => !i.wellFormed) = true := by decide
theorem test_wellFormed_long_multiply : [Instr.umull .al false 0#4 0#4 1#4 2#4, .smlal .al false 1#4 0#4 3#4 1#4,
    .smull .al false 1#4 0#4 3#4 0#4, .umlal .al false 1#4 0#4 15#4 2#4].all (fun i => !i.wellFormed) = true := by
  decide
theorem test_wellFormed_psr : [Instr.mrs .al false 15#4, .msrReg .al false ⟨true, false, false, true⟩ 15#4].all
    (fun i => !i.wellFormed) = true := by decide
theorem test_wellFormed_writeback : [Instr.ldrImmPre .al true true 1#4 1#4 4#12, .strImmPost .al true 15#4 0#4 4#12,
    .ldrhImm .al .post true 2#4 2#4 2#8].all (fun i => !i.wellFormed) = true := by decide
theorem test_wellFormed_offset_register : [Instr.ldrRegPre .al true false 1#4 0#4 ⟨15#4, .lsl, 0#5⟩,
    .strhReg .al (.pre false) true 1#4 0#4 15#4].all (fun i => !i.wellFormed) = true := by decide
theorem test_wellFormed_block : [Instr.stm .al false true false 15#4 1#16, .ldm .al false true true 5#4 0#16,
    .ldmPcS .al false true true 15#4 1#15, .stmS .al false true true 5#4 1#16, .ldmUserS .al false true true 5#4 1#15,
    .ldmUserS .al false true false 5#4 0#15].all (fun i => !i.wellFormed) = true := by decide
theorem test_wellFormed_swap : [Instr.swp .al 1#4 15#4 2#4, .swpb .al 1#4 0#4 15#4, .swp .al 15#4 0#4 1#4].all
    (fun i => !i.wellFormed) = true := by decide
theorem test_wellFormed_coprocessor_base : (Instr.ldc .al true true false true 15#4 0#4 1#4 0#8).wellFormed = false := by
  decide
theorem test_wellFormed_thumb_lists : [Instr.tPush false 0#8, .tPop false 0#8, .tStmia 0#3 0#8, .tLdmia 0#3 0#8].all
    (fun i => !i.wellFormed) = true := by decide

/-! ## Timing table -/

/-- R631, R632, R634: ADDS with a shift by register into R15, MUL with m = 2, LDM with R15, BNE not taken. -/
theorem test_cycles : [Instr.addShReg .al true 0#4 15#4 ⟨1#4, .lsl, 2#4⟩, .mul .al false 0#4 1#4 2#4,
    .ldm .al false true true 13#4 0x8003#16, .tBne 0#8].map (cyclesOf 0 0 (start 0x4000001f 0x8000 [(1, 0x1234)] [])) =
    [⟨2, 1, 1, 0⟩, ⟨1, 0, 2, 0⟩, ⟨4, 2, 1, 0⟩, ⟨1, 0, 0, 0⟩] := by decide

/-! ## For every statement with hypotheses, states and operands that meet all of them -/

/-- An ARM state in the mode with these bits, `w` at pc. -/
def armAt (bits w : Nat) : State := start bits 0x8000 [(1, 0x1000)] [(0x8000, .word, w)]

theorem test_DecodeOfEncode_met : (Instr.stm .ne true false true 3#4 0x8001#16).wellFormed = true ∧
    (Instr.tPush true 0#8).wellFormed = true := by decide

theorem test_EncodeOfDecode_met : decodeArm 0xEAFFFFFE#32 = .ok (.b .al 0xFFFFFE#24) ∧
    decodeThumb 0xFFFF#16 = .ok (.tBlSecond 0x7FF#11) := ⟨rfl, rfl⟩

/-- An ARM and a THUMB instruction; one right after an LDM of the user bank that reads no banked register. -/
theorem test_StepRunsDecoded_met :
    (noEvent (armAt 0x1f 0xE3A00001) ∧ fetchable (armAt 0x1f 0xE3A00001) ∧
      decode false (bytesAtPc (armAt 0x1f 0xE3A00001)) = .ok (.movImm .al false 0#4 ⟨0#4, 1#8⟩) ∧
      conditionPasses (armAt 0x1f 0xE3A00001) ∧
      (armAt 0x1f 0xE3A00001).bankHazard (.movImm .al false 0#4 ⟨0#4, 1#8⟩) = false) ∧
    (noEvent (start 0x3f 0x8002 [] []) ∧ fetchable (start 0x3f 0x8002 [] []) ∧
      decode true (bytesAtPc (start 0x3f 0x8002 [] [])) = .ok (.tLslImm 0#5 0#3 0#3) ∧
      conditionPasses (start 0x3f 0x8002 [] []) ∧
      (start 0x3f 0x8002 [] []).bankHazard (.tLslImm 0#5 0#3 0#3) = false) ∧
    (let s := { armAt 0x93 0xE1A00001 with userLdm := true }
     noEvent s ∧ fetchable s ∧
       decode false (bytesAtPc s) = .ok (.movShImm .al false 0#4 ⟨1#4, .lsl, 0#5⟩) ∧ conditionPasses s ∧
       s.bankHazard (.movShImm .al false 0#4 ⟨1#4, .lsl, 0#5⟩) = false) :=
  ⟨⟨by unfold noEvent; decide, by unfold fetchable pcAligned ReachesRam; decide, rfl,
      fun _ => ⟨.al, by decide, by decide⟩, by decide⟩,
    ⟨by unfold noEvent; decide, by unfold fetchable pcAligned ReachesRam; decide, rfl,
      fun h => absurd h (by decide), by decide⟩,
    by unfold noEvent; decide, by unfold fetchable pcAligned ReachesRam; decide, rfl,
      fun _ => ⟨.al, by decide, by decide⟩, by decide⟩

theorem test_FailedConditionIsNop_met : armCond (.swi .eq 0#24) = some .eq ∧
    condPassed .eq (armAt 0x1f 0).cpsr.flags = false := by decide

/-- A failing condition; condition 1111b with the switch off and on. -/
theorem test_ConditionAtTheStep_met :
    (noEvent (armAt 0x1f 0x0A000000) ∧ fetchable (armAt 0x1f 0x0A000000) ∧ (armAt 0x1f 0x0A000000).cpsr.t = false ∧
      Cond.ofCode (((armAt 0x1f 0x0A000000).mem.read 0x8000#32 .word).extractLsb' 28 4) = some .eq ∧
      condPassed .eq (armAt 0x1f 0x0A000000).cpsr.flags = false) ∧
    (noEvent (armAt 0x1f 0xF0000000) ∧ fetchable (armAt 0x1f 0xF0000000) ∧
      ((armAt 0x1f 0xF0000000).mem.read 0x8000#32 .word).extractLsb' 28 4 = 15#4 ∧
      (armAt 0x1f 0xF0000000).platform.nvNeverExecutes = false) ∧
    (let s := { armAt 0x1f 0xF0000000 with platform := ⟨[], [], [], true⟩ }
     noEvent s ∧ fetchable s ∧ s.platform.nvNeverExecutes = true) := by
  unfold noEvent fetchable pcAligned ReachesRam; decide

/-- The last byte of the instruction is the first byte of the store; steps that answer next; a store that does not
abort; B. -/
theorem test_StaleFetchRefused_met :
    (let s := { armAt 0x1f 0 with window := ⟨[], [⟨0x8003#32, 1⟩]⟩ }
     noEvent s ∧ pcAligned s ∧ s.aborts .fetch s.userMode s.pc s.fetchWidth = false ∧
       (⟨0x8003#32, 1⟩ : Span) ∈ s.window.last ++ s.window.prev ∧ s.pc.toNat ≤ 0x8003 ∧
       0x8003 < s.pc.toNat + widthBytes s.fetchWidth) ∧
    steps (armAt 0x1f 0xE5810000) (fun t => decide (t.window = ⟨[⟨0x1000#32, 4⟩], []⟩)) = true ∧
    ((SingleForm.immPre false 0#12).allowed 1#4 0#4 ∧
      (armAt 0x1f 0).aborts .write ((SingleForm.immPre false 0#12).user (armAt 0x1f 0))
        ((SingleForm.immPre false 0#12).ea true 1#4 (armAt 0x1f 0)) .word = false) ∧
    condPassed .al (armAt 0x1f 0).cpsr.flags = true := by
  unfold noEvent pcAligned SingleForm.allowed; decide

/-- Right after an LDM of the user bank: STMDB R13!,{R0} in Supervisor mode, whose base is banked; ADD R0,R1,R8 in FIQ
mode, whose second operand is. -/
theorem test_BankedReadAfterUserLdmRefused_met :
    (let s := { armAt 0x93 0xE92D0001 with userLdm := true }
     let i : Instr := .stm .al true false true 13#4 1#16
     noEvent s ∧ fetchable s ∧ decode s.cpsr.t (bytesAtPc s) = .ok i ∧ conditionPasses s ∧ s.userLdm = true ∧
       13#4 ∈ readsRegs s.platform.coprocs i ∧ bankedRegister s.cpsr.mode 13#4) ∧
    (let s := { armAt 0xd1 0xE0810008 with userLdm := true }
     let i : Instr := .addShImm .al false 1#4 0#4 ⟨8#4, .lsl, 0#5⟩
     noEvent s ∧ fetchable s ∧ decode s.cpsr.t (bytesAtPc s) = .ok i ∧ conditionPasses s ∧ s.userLdm = true ∧
       8#4 ∈ readsRegs s.platform.coprocs i ∧ bankedRegister s.cpsr.mode 8#4) :=
  ⟨⟨by unfold noEvent; decide, by unfold fetchable pcAligned ReachesRam; decide, rfl,
      fun _ => ⟨.al, by decide, by decide⟩, rfl, by decide, by unfold bankedRegister; decide⟩,
    by unfold noEvent; decide, by unfold fetchable pcAligned ReachesRam; decide, rfl,
      fun _ => ⟨.al, by decide, by decide⟩, rfl, by decide, by unfold bankedRegister; decide⟩

/-- FIQ; IRQ with nFIQ HIGH; IRQ with F set and nFIQ LOW. -/
theorem test_InterruptEntry_met :
    (let s := { armAt 0x9f 0 with inputs := [⟨false, .low, .high⟩] }
     s.sample.reset = false ∧ s.sample.nFIQ = .low ∧ s.cpsr.f = false) ∧
    (let s := { armAt 0x1f 0 with inputs := [⟨false, .high, .low⟩] }
     s.sample.reset = false ∧ s.sample.nFIQ = .high ∧ s.sample.nIRQ = .low ∧ s.cpsr.i = false) ∧
    (let s := { armAt 0x5f 0 with inputs := [⟨false, .low, .low⟩] }
     s.sample.reset = false ∧ s.cpsr.f = true ∧ s.sample.nIRQ = .low ∧ s.cpsr.i = false) := by decide

theorem test_PrefetchAbortEntry_met :
    let s := onPlatform (armAt 0x10 0) [⟨.fetch, .word, true, 0x8000#32, 0x8000#32⟩] []
    noEvent s ∧ pcAligned s ∧ s.aborts .fetch s.userMode s.pc s.fetchWidth = true := by
  unfold noEvent pcAligned; decide

theorem test_SwiEntry_met : (armAt 0x10 0).cpsr.t = false ∧ condPassed .al (armAt 0x10 0).cpsr.flags = true ∧
    (start 0x30 0 [] []).cpsr.t = true := by decide

theorem test_UndefinedEntry_met : (armAt 0x10 0).cpsr.t = false ∧
    condPassed .al (armAt 0x10 0).cpsr.flags = true ∧ (15#4) ∉ (armAt 0x10 0).platform.coprocs := by decide

/-- LDR with write-back, STRBT; LDRH, STRH; a THUMB load and a THUMB store; SWP with either access aborting. -/
theorem test_SingleDataAbort_met :
    (let s := onPlatform (armAt 0x10 0) [⟨.read, .word, true, 0x1000#32, 0x1003#32⟩] []
     condPassed .al s.cpsr.flags = true ∧ (SingleForm.immPost 4#12).allowed 1#4 0#4 ∧
       s.aborts .read ((SingleForm.immPost 4#12).user s)
         ((SingleForm.immPost 4#12).ea true 1#4 s) .word = true ∧
       s.aborts .read s.userMode (s.reg 1#4 8) .word = true) ∧
    (let s := onPlatform (armAt 0x1f 0) [⟨.write, .byte, true, 0x1000#32, 0x1000#32⟩] []
     (SingleForm.immT 4#12).allowed 1#4 0#4 ∧
       s.aborts .write ((SingleForm.immT 4#12).user s) ((SingleForm.immT 4#12).ea true 1#4 s)
         .byte = true) ∧
    (let s := onPlatform (armAt 0x10 0) [⟨.read, .half, true, 0x1001#32, 0x1001#32⟩,
       ⟨.write, .half, true, 0x1001#32, 0x1001#32⟩] []
     (HalfForm.imm 1#8).allowed (.pre true) 1#4 0#4 ∧
       s.aborts .read s.userMode ((HalfForm.imm 1#8).ea (.pre true) true 1#4 s) .half = true ∧
       s.aborts .write s.userMode ((HalfForm.imm 1#8).ea (.pre true) true 1#4 s) .half = true) ∧
    (let s := onPlatform (start 0x30 0x8002 [(1, 0x1003)] []) [⟨.read, .word, true, 0x1003#32, 0x1003#32⟩,
       ⟨.write, .word, true, 0x1003#32, 0x1003#32⟩] []
     thumbLoadView s (.tLdrImm 0#5 1#3 0#3) = some (.word, 0#3, 0x1003#32) ∧
       s.aborts .read s.userMode 0x1003#32 .word = true ∧
       thumbStoreView s (.tStrImm 0#5 1#3 0#3) = some (.word, 0#3, 0x1003#32) ∧
       s.aborts .write s.userMode 0x1003#32 .word = true) ∧
    (let s := onPlatform (armAt 0x10 0) [⟨.write, .word, true, 0x1000#32, 0x1003#32⟩] []
     ReachesRam s .read s.userMode (s.reg 1#4 8) (SingleOp.ldr.address (s.reg 1#4 8)) .word ∧
       s.aborts .write s.userMode (s.reg 1#4 8) .word = true) := by
  unfold SingleForm.allowed HalfForm.allowed ReachesRam; decide

/-- STMIA R1!,{R0,R1} and LDMIA R1!,{R0,R1}^ whose second word aborts, LDM^ with R15; LDC and STC whose first word
aborts. -/
theorem test_SingleDataAbort_blocks_met :
    (let s := onPlatform (armAt 0x93 0) [⟨.read, .word, false, 0x1004#32, 0x1007#32⟩,
       ⟨.write, .word, false, 0x1004#32, 0x1007#32⟩] []
     s.mem.wf = true ∧ (Instr.stm .al false true true 1#4 3#16).wellFormed = true ∧
       condHolds (.stm .al false true true 1#4 3#16) s ∧
       (∃ b : BlockView, storeView s (.stm .al false true true 1#4 3#16) = some b ∧
         FirstAbort s .write (fun k => b.list.getLsbD k = true) b.address 1) ∧
       (∃ b : BlockView, loadsBlock s (.ldmUserS .al false true false 1#4 3#15) b ∧
         FirstAbort s .read (fun k => b.list.getLsbD k = true) b.address 1) ∧
       (∃ b : BlockView, loadsBlock s (.ldmPcS .al false true true 1#4 1#15) b ∧
         FirstAbort s .read (fun k => b.list.getLsbD k = true) b.address 15)) ∧
    (let s := onPlatform (armAt 0x1f 0) [⟨.read, .word, false, 0x1000#32, 0x1003#32⟩,
       ⟨.write, .word, false, 0x1000#32, 0x1003#32⟩] [1#4]
     1#4 ∈ s.platform.coprocs ∧ s.mem.wf = true ∧
       ∀ n : Nat, AbortsAt s .read (coprocAddress false true 1#4 0#8 s) 0 n ∧
         AbortsAt s .write (coprocAddress false true 1#4 0#8 s) 0 n) :=
  ⟨⟨by decide, by decide, fun c h => by cases h; decide,
      ⟨_, rfl, by unfold FirstAbort; exact ⟨by decide, by decide, fun k _ h => by
        obtain rfl : k = 0 := by omega
        decide, fun _ _ => rfl⟩⟩,
      ⟨_, .inl rfl, by unfold FirstAbort; exact ⟨by decide, by decide, fun k _ h => by
        obtain rfl : k = 0 := by omega
        decide, fun _ _ => rfl⟩⟩,
      _, .inr ⟨by decide, _, _, _, _, _, _, rfl, rfl⟩, by decide, by decide, fun k h hk => by
        have low : ∀ k : Nat, k < 15 → (0x8001#16).getLsbD k = true → k = 0 := by decide
        obtain rfl := low k hk h
        decide, fun _ _ => rfl⟩,
    by decide, by decide, fun _ => ⟨⟨by decide, fun _ h => absurd h (by omega), fun _ _ => rfl⟩,
      by decide, fun _ h => absurd h (by omega), fun _ _ => rfl⟩⟩

theorem test_AluExceptionReturn_met : let s := inSpsr (armAt 0x93 0) .svc 0x30
    condPassed .al s.cpsr.flags = true ∧ (Op2Form.imm ⟨0#4, 4#8⟩).allowed ∧ AluOp.sub.compares = false ∧
      s.spsrs.get? s.cpsr.mode = some (Psr.ofWord 0x30#32) ∧ Mode.usr.bits = (Psr.ofWord 0x30#32).m := by
  unfold Op2Form.allowed; decide

theorem test_NoSpsrRefused_met : (armAt 0x10 0).cpsr.mode = .usr ∧ (armAt 0x1f 0).cpsr.mode = .sys ∧
    condPassed .al (armAt 0x10 0).cpsr.flags = true ∧ (Op2Form.shReg ⟨0#4, .lsl, 1#4⟩).allowed := by
  unfold Op2Form.allowed; decide

/-- A SWI of each state; an IRQ. -/
theorem test_ExceptionsReturn_met :
    (pcAligned (armAt 0x10 0) ∧ (armAt 0x10 0).cpsr.t = false) ∧
    (pcAligned (start 0x3f 0x8002 [] []) ∧ (start 0x3f 0x8002 [] []).cpsr.t = true) ∧
    (let s := { armAt 0x1f 0 with inputs := [⟨false, .high, .low⟩] }
     pcAligned s ∧ s.sample.reset = false ∧ s.sample.nFIQ = .high ∧ s.sample.nIRQ = .low ∧ s.cpsr.i = false) := by
  unfold pcAligned; decide

theorem test_ResetInput_met : ({ armAt 0x10 0 with inputs := [⟨true, .low, .low⟩] } : State).sample.reset = true := by
  decide

theorem test_StepKeepsInv_met : Invariant (armAt 0x1f 0xEAFFFFFE) ∧ ∃ t : State, step (armAt 0x1f 0xEAFFFFFE) = .next t :=
  ⟨by unfold Invariant pcAligned; decide, _, rfl⟩

/-- A User mode instruction that stays in User mode, and one that traps. -/
theorem test_UserModeConfined_met : (armAt 0x10 0).cpsr.mode = .usr ∧
    (∃ t : State, exec (.bl .al 0#24) (armAt 0x10 0) = .next t) ∧
    (∃ t : State, exec (.swi .al 0#24) (armAt 0x10 0) = .next t) := ⟨by decide, ⟨_, rfl⟩, _, rfl⟩

/-- An instruction that leaves T alone, one that enters an exception, one that copies the SPSR. -/
theorem test_WhatChangesT_met :
    (∃ t : State, exec (.tB 0#11) (start 0x3f 0x8002 [] []) = .next t) ∧
    (∃ t : State, exec (.tSwi 0#8) (start 0x3f 0x8002 [] []) = .next t) ∧
    (∃ t : State, exec (.movImm .al true 15#4 ⟨0#4, 0#8⟩) (inSpsr (armAt 0x93 0) .svc 0x30) = .next t) :=
  ⟨⟨_, rfl⟩, ⟨_, rfl⟩, _, rfl⟩

theorem test_FlagsKept_met : keepsFlags (.bl .al 0#24) = true ∧
    ∃ t : State, exec (.bl .al 0#24) (armAt 0x10 0) = .next t := ⟨by decide, _, rfl⟩

theorem test_OnlyStoresStore_met : storesMemory (.swi .al 0#24) = false ∧
    ∃ t : State, exec (.swi .al 0#24) (armAt 0x10 0) = .next t := ⟨by decide, _, rfl⟩

theorem test_WellFormedRuns_met : (Instr.ldmPcS .al false true true 5#4 0#15).wellFormed = true := by decide

/-- LDC with write-back to R15 and its coprocessor alone attached; MUL with Rd = Rm on the default platform. -/
theorem test_IllFormedRefused_met :
    (violation (.ldc .al true true false true 15#4 0#4 1#4 0#8) = some .writebackR15 ∧
      condHolds (.ldc .al true true false true 15#4 0#4 1#4 0#8) (onPlatform (armAt 0x10 0) [] [1#4]) ∧
      ∀ p : BitVec 4, transferCoproc (.ldc .al true true false true 15#4 0#4 1#4 0#8) = some p →
        p ∈ (onPlatform (armAt 0x10 0) [] [1#4]).platform.coprocs) ∧
    (violation (.mul .al false 0#4 1#4 0#4) = some .mulRdEqRm ∧
      condHolds (.mul .al false 0#4 1#4 0#4) (armAt 0x10 0) ∧
      ∀ p : BitVec 4, transferCoproc (.mul .al false 0#4 1#4 0#4) = some p →
        p ∈ (armAt 0x10 0).platform.coprocs) :=
  ⟨⟨by decide, fun c h => by cases h; decide, fun p h => by cases h; decide⟩,
    by decide, fun c h => by cases h; decide, fun p h => by cases h⟩

/-- A compare, which may name R15 as Rd, and a form that writes a register. -/
theorem test_DataProcessing_met : condPassed .al (armAt 0x10 0).cpsr.flags = true ∧
    (Op2Form.shReg ⟨15#4, .lsl, 14#4⟩).allowed ∧ AluOp.cmp.compares = true ∧ (14#4 : Reg) ≠ 15#4 := by
  unfold Op2Form.allowed; decide

theorem test_DataProcessingToPc_met : condPassed .al (armAt 0x10 0).cpsr.flags = true ∧
    (Op2Form.shImm ⟨15#4, .ror, 0#5⟩).allowed ∧ AluOp.mvn.compares = false := by
  unfold Op2Form.allowed; decide

/-- Register shifts by 0, 1, 31, 32, 33 and 255: one value for each line of the table's ends. -/
theorem test_ShiftByRegister_met : [0, 1, 31, 32, 33, 255].map (fun k => (BitVec.ofNat 8 k).toNat) =
    [0, 1, 31, 32, 33, 255] := by decide

theorem test_Multiply_met : condPassed .al (armAt 0x10 0).cpsr.flags = true ∧ (0#4 : Reg) ≠ 14#4 ∧ (0#4 : Reg) ≠ 15#4 ∧
    (14#4 : Reg) ≠ 15#4 := by decide

theorem test_LongMultiply_met : condPassed .al (armAt 0x10 0).cpsr.flags = true ∧ (0#4 : Reg) ≠ 1#4 ∧ (0#4 : Reg) ≠ 2#4 ∧
    (1#4 : Reg) ≠ 2#4 ∧ (0#4 : Reg) ≠ 15#4 ∧ (1#4 : Reg) ≠ 15#4 ∧ (2#4 : Reg) ≠ 15#4 := by decide

/-- The CPSR in User mode; the SPSR in IRQ mode. -/
theorem test_MrsReads_met : condPassed .al (armAt 0x10 0).cpsr.flags = true ∧
    (inSpsr (armAt 0x92 0) .irq 0x3f).spsrs.get? (inSpsr (armAt 0x92 0) .irq 0x3f).cpsr.mode =
      some (Psr.ofWord 0x3f#32) := by decide

/-- MSR CPSR_c,#1Fh in IRQ mode; MSR CPSR_f,R1 in Supervisor mode. -/
theorem test_MsrCpsrPrivileged_met : let s := armAt 0xd2 0
    s.cpsr.mode ≠ .usr ∧ condPassed .al s.cpsr.flags = true ∧
      (let w := Op2Imm.value ⟨0#4, 0x1F#8⟩
       w.getLsbD 5 = s.cpsr.t ∧ Mode.sys.bits = w.extractLsb' 0 5) := by decide

theorem test_MsrCpsrUser_met : (armAt 0x10 0).cpsr.mode = .usr ∧ condPassed .al (armAt 0x10 0).cpsr.flags = true := by
  decide

theorem test_MsrSpsr_met : (armAt 0xd1 0).spsrs.get? (armAt 0xd1 0).cpsr.mode = some Psr.zero ∧
    condPassed .al (armAt 0xd1 0).cpsr.flags = true := by decide

/-- A word that changes T; one that keeps it and names no mode; each in a register and as an immediate. -/
theorem test_MsrRefused_met :
    (let s := start 0xd3 0x8000 [(0, 0x33)] []
     s.cpsr.mode ≠ .usr ∧ (s.reg 0#4 8).getLsbD 5 ≠ s.cpsr.t ∧ (Op2Imm.value ⟨0#4, 0x33#8⟩).getLsbD 5 ≠ s.cpsr.t) ∧
    (let s := start 0xd3 0x8000 [(0, 0x14)] []
     (s.reg 0#4 8).getLsbD 5 = s.cpsr.t ∧ (Op2Imm.value ⟨0#4, 0x14#8⟩).getLsbD 5 = s.cpsr.t ∧
       ∀ m : Mode, m.bits ≠ (s.reg 0#4 8).extractLsb' 0 5 ∧
         m.bits ≠ (Op2Imm.value ⟨0#4, 0x14#8⟩).extractLsb' 0 5) :=
  ⟨by decide, by decide, by decide, fun m => by cases m <;> decide⟩

theorem test_ArmBranches_met : condPassed .al (armAt 0x10 0).cpsr.flags = true ∧ (14#4 : Reg) ≠ 15#4 := by decide

/-- Into R15 without write-back; into a register with write-back at the top of the address space. -/
theorem test_SingleLoads_met :
    ((SingleForm.immPre false 0#12).allowed 1#4 15#4 ∧
      ReachesRam (armAt 0x1f 0) .read false 0x1000#32 (SingleOp.ldr.address 0x1000#32) .word) ∧
    ((SingleForm.immPost 4#12).allowed 1#4 0#4 ∧
      ReachesRam (start 0x1f 0x8000 [(1, 0xFFFFFFFF)] []) .read false 0xFFFFFFFF#32 0xFFFFFFFF#32 .byte) := by
  unfold SingleForm.allowed ReachesRam; decide

theorem test_SingleStores_met : (SingleForm.regT ⟨2#4, .ror, 0#5⟩).allowed 1#4 15#4 ∧ (armAt 0x1f 0).mem.wf = true ∧
    ReachesRam (armAt 0x1f 0) .write true 0x1003#32 (SingleOp.str.address 0x1003#32) .word := by
  unfold SingleForm.allowed ReachesRam; decide

theorem test_HalfwordLoads_met : (HalfForm.reg 2#4).allowed (.pre true) 1#4 15#4 ∧
    ReachesRam (armAt 0x1f 0) .read false 0x1001#32 (HalfLoad.ldrsh.address 0x1001#32)
      (HalfLoad.ldrsh.width 0x1001#32) := by
  unfold HalfForm.allowed ReachesRam; decide

theorem test_HalfwordStores_met : (HalfForm.imm 0xFF#8).allowed .post 1#4 15#4 ∧ (armAt 0x1f 0).mem.wf = true ∧
    ReachesRam (armAt 0x1f 0) .write false 0x1001#32 (alignHalf 0x1001#32) .half := by
  unfold HalfForm.allowed ReachesRam; decide

/-- STM with R15 listed; PUSH {LR} whose address wraps round 0. -/
theorem test_StoreMultiple_met :
    (∃ b : BlockView, storeView (armAt 0x1f 0) (.stm .al true false true 1#4 0x8003#16) = some b ∧
      b.ram (armAt 0x1f 0) .write) ∧
    (∃ b : BlockView, storeView (start 0x3f 0x8002 [(13, 0)] []) (.tPush true 0#8) = some b ∧
      b.ram (start 0x3f 0x8002 [(13, 0)] []) .write) ∧
    condHolds (.stm .al true false true 1#4 0x8003#16) (armAt 0x1f 0) :=
  ⟨⟨_, rfl, by unfold BlockView.ram ReachesRam; decide⟩, ⟨_, rfl, by unfold BlockView.ram ReachesRam; decide⟩,
    fun c h => by cases h; decide⟩

/-- LDM with the base listed; LDM^ of the user bank. -/
theorem test_LoadMultiple_met :
    (∃ b : BlockView, loadView (armAt 0x1f 0) (.ldm .al false true true 1#4 0x0003#16) = some b ∧
      b.list.getLsbD 15 = false ∧ b.ram (armAt 0x1f 0) .read) ∧
    (∃ b : BlockView, loadView (armAt 0x93 0) (.ldmUserS .al false true false 1#4 0x6000#15) = some b ∧
      b.list.getLsbD 15 = false ∧ b.ram (armAt 0x93 0) .read) :=
  ⟨⟨_, rfl, by decide, by unfold BlockView.ram ReachesRam; decide⟩, _, rfl, by decide,
    by unfold BlockView.ram ReachesRam; decide⟩

theorem test_LoadMultipleToPc_met :
    ∃ b : BlockView, loadView (start 0x3f 0x8002 [(13, 0x2000)] []) (.tPop true 0#8) = some b ∧
      b.list.getLsbD 15 = true ∧ b.ram (start 0x3f 0x8002 [(13, 0x2000)] []) .read :=
  ⟨_, rfl, by decide, by unfold BlockView.ram ReachesRam; decide⟩

theorem test_LdmExceptionReturn_met : let s := inSpsr (armAt 0x93 0) .svc 0x30
    s.spsrs.get? s.cpsr.mode = some (Psr.ofWord 0x30#32) ∧ Mode.usr.bits = (Psr.ofWord 0x30#32).m ∧
      (armBlockView s s.cpsr.mode false true true 1#4 0x8001#16).ram s .read := by
  unfold BlockView.ram ReachesRam; decide

theorem test_Swap_met : (armAt 0x1f 0).mem.wf = true ∧
    ReachesRam (armAt 0x1f 0) .read false 0x1003#32 (SingleOp.ldr.address 0x1003#32) .word ∧
    ReachesRam (armAt 0x1f 0) .write false 0x1003#32 (SingleOp.ldr.address 0x1003#32) .word := by
  unfold ReachesRam; decide

theorem test_CoprocessorRegisters_met : 1#4 ∈ (onPlatform (armAt 0x1f 0) [] [1#4]).platform.coprocs ∧
    condPassed .al (onPlatform (armAt 0x1f 0) [] [1#4]).cpsr.flags = true := by decide

/-- On a platform with no abort range and no device window every word reaches RAM, however many there are. -/
theorem test_CoprocessorMemory_met :
    let s := onPlatform (armAt 0x1f 0) [] [1#4]
    1#4 ∈ s.platform.coprocs ∧ condPassed .al s.cpsr.flags = true ∧ s.mem.wf = true ∧
    ∀ k : Nat, ReachesRam s .read s.userMode (coprocAddress true true 1#4 4#8 s k)
      (coprocAddress true true 1#4 4#8 s k) .word ∧
      ReachesRam s .write s.userMode (coprocAddress true true 1#4 4#8 s k)
      (coprocAddress true true 1#4 4#8 s k) .word :=
  ⟨by decide, by decide, by decide, fun _ => ⟨⟨rfl, rfl⟩, rfl, rfl⟩⟩

theorem test_ThumbDataProcessing_met :
    (∃ a b : Word, thumbAluView (start 0x3f 0x8002 [] []) (.tNeg 1#3 0#3) = some (.sub, 0#3, a, b)) ∧
    (∃ a b : Word, thumbCompareView (start 0x3f 0x8002 [] []) (.tCmpHiDst 15#4 7#3) = some (.cmp, a, b)) :=
  ⟨⟨_, _, rfl⟩, _, _, rfl⟩

theorem test_ThumbShiftsAndMultiply_met :
    ∃ r : Shifted, thumbShiftView (start 0x3f 0x8002 [] []) (.tRor 1#3 0#3) = some (0#3, r) := ⟨_, rfl⟩

/-- Into R15, into the stack pointer. -/
theorem test_ThumbMoves_met :
    (∃ v : Word, thumbMoveView (start 0x3f 0x8002 [] []) (.tAddHiDst 0#4 7#3) = some (15#4, v)) ∧
    (∃ v : Word, thumbMoveView (start 0x3f 0x8002 [] []) (.tSpSub 127#7) = some (13#4, v)) := ⟨⟨_, rfl⟩, _, rfl⟩

theorem test_ThumbLoads_met :
    ∃ ea : Word, thumbLoadView (start 0x3f 0x8002 [(1, 0x1001)] []) (.tLdshReg 0#3 1#3 2#3) =
        some (.signedHalf, 2#3, ea) ∧
      ReachesRam (start 0x3f 0x8002 [(1, 0x1001)] []) .read false ea (LoadKind.address .signedHalf ea)
        (LoadKind.width .signedHalf ea) := ⟨_, rfl, by unfold ReachesRam; decide⟩

theorem test_ThumbStores_met : (start 0x3f 0x8002 [(13, 0x1003)] []).mem.wf = true ∧
    ∃ ea : Word, thumbStoreView (start 0x3f 0x8002 [(13, 0x1003)] []) (.tStrSp 2#3 0#8) = some (.word, 2#3, ea) ∧
      ReachesRam (start 0x3f 0x8002 [(13, 0x1003)] []) .write false ea (StoreKind.address .word ea) .word :=
  ⟨by decide, _, rfl, by unfold ReachesRam; decide⟩

theorem test_ThumbBranches_met : thumbBranchView (.tBle 0x80#8) = some (.le, 0x80#8) := rfl

theorem test_ThumbBl_met : (start 0x3f 0x8002 [] []).pc.toNat % 2 = 0 := by decide

theorem test_Banking_met : (14#4 : Reg) ≠ 15#4 ∧ (0#4 : Reg) ≠ 15#4 := by decide

/-- The last word of the address space; a place beside it. -/
theorem test_MemoryReadBack_met : Memory.wf [] = true ∧
    (0xFFFFFFFC#32).toNat + widthBytes .word ≤ 2 ^ 32 ∧
    (0xFFFFFFFB#32).toNat + widthBytes .byte ≤ (0xFFFFFFFC#32).toNat := by decide

end Sys2Proof.Tests
end

section
/-! PROOFS. What the decoder of each instruction set answers is an instruction of that set (spec/30_encoding.md R100). -/

namespace Sys2Proof

/-- What a decoder answers is an error or an instruction of the set that `thumb` names. -/
def decodesInto (thumb : Bool) : Decoded → Bool
  | .ok i => (encode i).isThumb == thumb
  | .error _ => true

theorem isThumb_of_decodesInto {thumb : Bool} {d : Decoded} {i : Instr} (h : decodesInto thumb d = true)
    (hd : d = .ok i) : (encode i).isThumb = thumb := by
  subst hd
  exact beq_iff_eq.mp h

variable (c : Cond) (w : Word) (h : Half)

theorem decodeMultiply_arm : decodesInto false (decodeMultiply c w) = true := by
  simp only [decodeMultiply]
  repeat' split
  all_goals rfl

theorem decodeHalf_arm : decodesInto false (decodeHalf c w) = true := by
  simp only [decodeHalf, decodeHalfReg, decodeHalfImm]
  repeat' split
  all_goals rfl

theorem decodePsrReg_arm : decodesInto false (decodePsrReg c w) = true := by
  simp only [decodePsrReg]
  repeat' split
  all_goals rfl

theorem decodeAluShReg_arm (op : BitVec 4) (sf : Bool) (rn rd : Reg) (o : Op2ShReg) :
    decodesInto false (decodeAluShReg c op sf rn rd o) = true := by
  simp only [decodeAluShReg, decodeMove, decodeCompare]
  repeat' split
  all_goals rfl

theorem decodeAluShImm_arm (op : BitVec 4) (sf : Bool) (rn rd : Reg) (o : Op2ShImm) :
    decodesInto false (decodeAluShImm c op sf rn rd o) = true := by
  simp only [decodeAluShImm, decodeMove, decodeCompare]
  repeat' split
  all_goals rfl

theorem decode000_arm : decodesInto false (decode000 c w) = true := by
  unfold decode000
  split
  · split
    · split
      · split
        · rfl
        · exact decodeMultiply_arm c w
      · exact decodeMultiply_arm c w
      · simp only [decodeSwap]
        repeat' split
        all_goals rfl
      · rfl
    · exact decodeHalf_arm c w
  · split
    · exact decodePsrReg_arm c w
    · split
      · exact decodeAluShReg_arm ..
      · exact decodeAluShImm_arm ..

theorem decode001_arm : decodesInto false (decode001 c w) = true := by
  simp only [decode001, decodeAluImm, decodeMove, decodeCompare]
  repeat' split
  all_goals rfl

theorem decodeSingleImm_arm : decodesInto false (decodeSingleImm c w) = true := by
  simp only [decodeSingleImm]
  repeat' split
  all_goals rfl

theorem decodeSingleReg_arm : decodesInto false (decodeSingleReg c w) = true := by
  simp only [decodeSingleReg]
  repeat' split
  all_goals rfl

theorem decodeBlock_arm : decodesInto false (decodeBlock c w) = true := by
  simp only [decodeBlock]
  repeat' split
  all_goals rfl

theorem decode111_arm : decodesInto false (decode111 c w) = true := by
  simp only [decode111]
  repeat' split
  all_goals rfl

/-- The ARM decoder, by the classes of bits 27-25 (R102). -/
theorem decodeArm_arm : decodesInto false (decodeArm w) = true := by
  unfold decodeArm
  split
  · rfl
  · rename_i c _
    unfold decodeArmWith
    split
    · exact decode000_arm c w
    · exact decode001_arm c w
    · exact decodeSingleImm_arm c w
    · split
      · rfl
      · exact decodeSingleReg_arm c w
    · exact decodeBlock_arm c w
    · split <;> rfl
    · unfold decodeCoprocTransfer
      split <;> rfl
    · exact decode111_arm c w

theorem decodeThumb1_thumb : decodesInto true (decodeThumb1 h) = true := by
  simp only [decodeThumb1]
  repeat' split
  all_goals rfl

theorem decodeThumb010_thumb : decodesInto true (decodeThumb010 h) = true := by
  simp only [decodeThumb010, decodeThumb78, decodeThumb5, decodeThumb4]
  repeat' split
  all_goals rfl

theorem decodeThumb101_thumb : decodesInto true (decodeThumb101 h) = true := by
  simp only [decodeThumb101, decodeThumb1011]
  repeat' split
  all_goals rfl

theorem decodeThumb110_thumb : decodesInto true (decodeThumb110 h) = true := by
  simp only [decodeThumb110, decodeThumb1101]
  repeat' split
  all_goals rfl

/-- The THUMB decoder, by the classes of bits 15-13 (R121). -/
theorem decodeThumb_thumb : decodesInto true (decodeThumb h) = true := by
  unfold decodeThumb
  split
  · exact decodeThumb1_thumb h
  · unfold decodeThumb3
    split <;> rfl
  · exact decodeThumb010_thumb h
  · unfold decodeThumb9
    split <;> rfl
  · unfold decodeThumb100
    split <;> rfl
  · exact decodeThumb101_thumb h
  · exact decodeThumb110_thumb h
  · unfold decodeThumb111
    split <;> rfl

/-- A decoded instruction belongs to the set whose decoder read it. -/
theorem isThumb_of_decode {thumb : Bool} {bytes : List Byte} {i : Instr} (hd : decode thumb bytes = .ok i) :
    (encode i).isThumb = thumb := by
  unfold decode at hd
  split at hd
  · exact isThumb_of_decodesInto (decodeThumb_thumb _) hd
  · exact isThumb_of_decodesInto (decodeArm_arm _) hd
  · cases hd

end Sys2Proof
end

section
/-! PROOFS. What one step can do (spec/60_exceptions.md R561 to R566), said once: `step_effect`, and where the step leads
when nothing stands in the way of the fetch: `step_of_fetchable`. -/

namespace Sys2Proof.Machine

/-- The PC is aligned when aligning it again changes nothing (spec/10_state.md R26, R29). -/
theorem alignPc_pc_iff (s : State) : alignPc s.cpsr.t s.pc = s.pc ↔ pcAligned s := by
  unfold alignPc pcAligned
  split
  · rw [← BitVec.toNat_inj, alignHalf_toNat]; omega
  · rw [← BitVec.toNat_inj, alignWord_toNat]; omega

/-- Alignment speaks of T and the PC only. -/
theorem pcAligned_congr {s t : State} (hpc : t.pc = s.pc) (ht : t.cpsr.t = s.cpsr.t) (h : pcAligned s) :
    pcAligned t := by
  unfold pcAligned at h ⊢
  rwa [hpc, ht]

/-- With no event at the boundary the step goes on to the instruction at pc (R566). -/
theorem step_of_noEvent {s : State} (h : noEvent s) : step s = s.sampled.runInstruction := by
  obtain ⟨hreset, hfiq, hirq⟩ := h
  have nofiq : ¬(s.sample.nFIQ = .low ∧ s.cpsr.f = false) := by
    rcases hfiq with h | h <;> simp [h]
  have noirq : ¬(s.sample.nIRQ = .low ∧ s.cpsr.i = false) := by
    rcases hirq with h | h <;> simp [h]
  simp only [step, State.runStep, hreset, nofiq, noirq, if_false, Bool.false_eq_true]

/-- A fetchable instruction is fetched from RAM and run (R566). -/
theorem runInstruction_of_fetchable {s : State} (h : fetchable s) :
    s.runInstruction = s.runFetched (s.mem.read s.pc s.fetchWidth) := by
  obtain ⟨hpc, ⟨habort, hram⟩, hstale⟩ := h
  simp [State.runInstruction, (alignPc_pc_iff s).mpr hpc, habort, hstale, State.take_ram hram]

/-- With no event and a fetchable instruction, the step runs the word or halfword that RAM holds at pc (R566). -/
theorem step_of_fetchable {s : State} (he : noEvent s) (hf : fetchable s) :
    step s = s.sampled.runFetched (s.mem.read s.pc s.fetchWidth) := by
  have hf' : fetchable s.sampled := hf
  exact (step_of_noEvent he).trans (runInstruction_of_fetchable hf')

/-- The state after the fetch: the sample consumed, and the device history longer where pc lies in a device window. -/
def State.fetched (s : State) : State := (s.sampled.take s.pc s.fetchWidth).2

@[simp] theorem State.fetched_pc (s : State) : s.fetched.pc = s.pc := (State.take_quiet s.sampled _ _).pc
@[simp] theorem State.fetched_cpsr (s : State) : s.fetched.cpsr = s.cpsr := (State.take_quiet s.sampled _ _).cpsr
@[simp] theorem State.fetched_mem (s : State) : s.fetched.mem = s.mem := State.take_mem s.sampled _ _

/-- The next states a step can lead to: an exception entered at the boundary or by the fetch, an ARM word passed over, or
what an instruction of the current state leads to. -/
inductive StepEffect (s : State) : State → Prop where
  | reset (asserted : s.sample.reset = true) : StepEffect s s.sampled.takeReset
  | fiq (asserted : s.sample.nFIQ = .low) (enabled : s.cpsr.f = false) : StepEffect s (s.sampled.enter .fiq)
  | irq (asserted : s.sample.nIRQ = .low) (enabled : s.cpsr.i = false) : StepEffect s (s.sampled.enter .irq)
  | prefetchAbort (quiet : noEvent s) (aborts : s.aborts .fetch s.userMode s.pc s.fetchWidth = true) :
      StepEffect s (s.sampled.enter .prefetchAbort)
  | skip (quiet : noEvent s) (arm : s.cpsr.t = false) : StepEffect s (s.fetched.executing.advance 4)
  | run (i : Instr) (t : State) (quiet : noEvent s) (own : inItsState i s)
      (runs : exec i s.fetched.executing = .next t) : StepEffect s t

/-- A decoded instruction that leads to a next state does so by its meaning. -/
theorem State.runDecoded_next {s t : State} {d : Decoded} (h : s.runDecoded d = .next t) :
    ∃ i : Instr, d = .ok i ∧ exec i s.executing = .next t := by
  unfold State.runDecoded at h
  split at h
  · cases h
  · rename_i i
    split at h
    · cases h
    · exact ⟨i, rfl, h⟩

/-- A fetched value is an ARM word passed over, or an instruction of the current state, which runs. -/
theorem State.runFetched_next {s t : State} {v : Word} (h : s.runFetched v = .next t) :
    s.cpsr.t = false ∧ t = s.executing.advance 4 ∨
      ∃ i : Instr, inItsState i s ∧ exec i s.executing = .next t := by
  have run {thumb : Bool} {bytes : List Byte} (ht : s.cpsr.t = thumb)
      (hd : s.runDecoded (decode thumb bytes) = .next t) :
      ∃ i : Instr, inItsState i s ∧ exec i s.executing = .next t := by
    obtain ⟨i, hi, hx⟩ := State.runDecoded_next hd
    exact ⟨i, ht.trans (isThumb_of_decode hi).symm, hx⟩
  unfold State.runFetched at h
  split at h
  case isTrue ht => exact .inr (run ht h)
  case isFalse ht =>
    have ht' : s.cpsr.t = false := by simpa using ht
    have skipped (hs : Host.Outcome.next (s.executing.advance 4) = (.next t : Result)) :
        s.cpsr.t = false ∧ t = s.executing.advance 4 := ⟨ht', (Host.Outcome.next.inj hs).symm⟩
    unfold State.runArm at h
    split at h
    · split at h
      · exact .inl (skipped h)
      · cases h
    · split at h
      · exact .inr (run ht' h)
      · exact .inl (skipped h)

/-- What the instruction at pc can do, no event being taken. -/
theorem runInstruction_effect {s : State} (he : noEvent s) : Ends s.sampled.runInstruction (StepEffect s) := by
  intro t h
  unfold State.runInstruction at h
  split at h
  · cases h
  split at h
  case isTrue ha =>
    cases h
    exact .prefetchAbort he ha
  case isFalse =>
    split at h
    · cases h
    have hcpsr : (s.sampled.take s.sampled.pc s.sampled.fetchWidth).2.cpsr = s.cpsr := s.fetched_cpsr
    rcases State.runFetched_next h with ⟨ht, rfl⟩ | ⟨i, hi, hx⟩
    · exact .skip he (by rwa [hcpsr] at ht)
    · exact .run i t he (by rwa [inItsState, hcpsr] at hi) hx

/-- What a step can do (R566). -/
theorem step_effect (s : State) : Ends (step s) (StepEffect s) := by
  intro t h
  have low_or_high (l : Level) : l = .low ∨ l = .high := by cases l <;> simp
  by_cases hreset : s.sample.reset = true
  · simp only [step, State.runStep, hreset, if_true] at h
    cases h
    exact .reset hreset
  by_cases hfiq : s.sample.nFIQ = .low ∧ s.cpsr.f = false
  · simp only [step, State.runStep, hreset, hfiq, and_self, if_true] at h
    cases h
    exact .fiq hfiq.1 hfiq.2
  by_cases hirq : s.sample.nIRQ = .low ∧ s.cpsr.i = false
  · simp only [step, State.runStep, hreset, hfiq, hirq, and_self, if_true, if_false] at h
    cases h
    exact .irq hirq.1 hirq.2
  have he : noEvent s := by
    refine ⟨by simpa using hreset, ?_, ?_⟩
    · rcases low_or_high s.sample.nFIQ with hl | hl <;> simp_all
    · rcases low_or_high s.sample.nIRQ with hl | hl <;> simp_all
  rw [step_of_noEvent he] at h
  exact runInstruction_effect he t h

end Sys2Proof.Machine
end

section
/-! PROOFS. What every instruction and every step keeps: the invariant, T, the flags. -/

namespace Sys2Proof.Machine

/-! ## The invariant -/

/-- Where one instruction follows another of its own size, the PC stays aligned (spec/10_state.md R26, R27). -/
theorem pcAligned_advance {i : Instr} {s t : State} {n : Word} (hi : inItsState i s) (hp : pcAligned s)
    (hpc : t.pc = s.pc + n) (ht : t.cpsr.t = s.cpsr.t) (hn : n = 4 ∨ n = 2 ∧ (encode i).isThumb = true) :
    pcAligned t := by
  unfold pcAligned at hp ⊢
  rw [ht, hpc, BitVec.toNat_add]
  rcases hn with rfl | ⟨rfl, hth⟩
  · have h4 : (4 : Word).toNat = 4 := rfl
    by_cases hs : s.cpsr.t = true
    · simp only [hs, if_true] at hp ⊢
      omega
    · simp only [hs, Bool.false_eq_true, if_false] at hp ⊢
      omega
  · have h2 : (2 : Word).toNat = 2 := rfl
    have hs : s.cpsr.t = true := hi.trans hth
    simp only [hs, if_true] at hp ⊢
    omega

/-- A write to the PC that is aligned by the state it leads to (spec/10_state.md R29). -/
theorem pcAligned_alignPc {t : State} {v : Word} (hpc : t.pc = alignPc t.cpsr.t v) : pcAligned t := by
  unfold pcAligned
  rw [hpc]
  unfold alignPc
  split
  · exact alignHalf_mod v
  · exact alignWord_mod v

/-- An exception vector is a multiple of 4. -/
theorem pcAligned_enter (s : State) (e : Exception) : pcAligned (s.enter e) :=
  pcAligned_of_dvd4 (by rw [State.enter_pc]; cases e <;> decide)

/-- An instruction that runs in its own state keeps the invariant. -/
theorem Effect.keepsInvariant {i : Instr} {s t : State} (h : Effect i s t) (hi : inItsState i s) (hs : Invariant s) :
    Invariant t := by
  obtain ⟨hwf, hpc⟩ := hs
  cases h with
  | proceed u n f quiet size =>
    exact ⟨quiet.wf hwf, pcAligned_advance hi hpc (by simp [quiet.pc]) (by simp [quiet.cpsr]) size⟩
  | jump u target quiet aligned => exact ⟨quiet.wf hwf, aligned hi hpc⟩
  | trap u r e quiet => exact ⟨quiet.wf hwf, pcAligned_enter u e⟩
  | restore u p m target quiet => exact ⟨quiet.wf hwf, pcAligned_alignPc (v := target) rfl⟩
  | exchange v => exact ⟨hwf, pcAligned_alignPc (v := v) rfl⟩
  | psr _ _ pc _ mem _ thumb => exact ⟨by rwa [mem], pcAligned_advance hi hpc pc thumb (.inl rfl)⟩

theorem Invariant.fetched {s : State} (h : Invariant s) : Invariant s.fetched.executing :=
  ⟨by simpa using h.1, pcAligned_congr (s := s) (by simp) (by simp) h.2⟩

/-- A step keeps the invariant, whatever it does. -/
theorem StepEffect.keepsInvariant {s t : State} (h : StepEffect s t) (hs : Invariant s) : Invariant t := by
  cases h with
  | reset => exact ⟨hs.1, pcAligned_congr (s := s.sampled.enter .reset) rfl rfl (pcAligned_enter _ _)⟩
  | fiq => exact ⟨hs.1, pcAligned_enter _ _⟩
  | irq => exact ⟨hs.1, pcAligned_enter _ _⟩
  | prefetchAbort => exact ⟨hs.1, pcAligned_enter _ _⟩
  | skip _ arm =>
    refine ⟨hs.fetched.1, pcAligned_of_dvd4 ?_⟩
    have h4 : (4 : Word).toNat = 4 := rfl
    have hpc := hs.2
    simp only [pcAligned, arm, Bool.false_eq_true, if_false] at hpc
    simp only [State.advance_pc, State.executing_pc, State.fetched_pc, BitVec.toNat_add]
    omega
  | run i t _ own runs =>
    have hi : inItsState i s.fetched.executing := by simpa [inItsState] using own
    exact (exec_effect i _ t runs).keepsInvariant hi hs.fetched

/-- Settles O21: `step_effect` says what a step can do, and each of its cases keeps the invariant. -/
theorem stepKeepsInv : Obligations.StepKeepsInv :=
  fun s t hs hstep => (step_effect s t hstep).keepsInvariant hs

/-- Settles O20, the base case of O21: no memory is listed, and the reset vector is 0. -/
theorem invReset : Obligations.InvReset := ⟨rfl, pcAligned_of_dvd4 rfl⟩

/-- Settles O18, the values that `State.reset` writes out. -/
theorem resetValues : Obligations.ResetValues := ⟨rfl, rfl, rfl, rfl, rfl⟩

/-! ## T and the flags -/

/-- Settles O23, by cases on what an instruction can do: T changes by an exchange, an entry or a return only. -/
theorem whatChangesT : Obligations.WhatChangesT := by
  intro i s t hbx htbx hx
  cases exec_effect i s t hx with
  | proceed u n f quiet => exact .inl (by simp [quiet.cpsr])
  | jump u target quiet => exact .inl (by simp [quiet.cpsr])
  | trap u r e quiet mode vector => exact .inr (.inl ⟨r, mode, vector, rfl⟩)
  | restore u p m target quiet mem writesFlags spsr legal => exact .inr (.inr ⟨p, m, spsr, legal, rfl⟩)
  | exchange v bx =>
    rcases bx with ⟨c, rn, rfl⟩ | ⟨rs, rfl⟩
    · exact absurd rfl (hbx c rn)
    · exact absurd rfl (htbx rs)
  | psr _ _ _ _ _ _ thumb => exact .inl thumb

/-- Settles O24, by cases on what an instruction can do: those that write the flags are none of `keepsFlags`. -/
theorem flagsKept : Obligations.FlagsKept := by
  intro i s t hk hx
  cases exec_effect i s t hx with
  | proceed u n f quiet size flags => exact flags hk
  | jump u target quiet => simp [quiet.cpsr]
  | trap u r e quiet => simp [quiet.cpsr]
  | restore u p m target quiet mem writesFlags => simp [hk] at writesFlags
  | exchange v => simp
  | psr _ writesFlags => simp [hk] at writesFlags

end Sys2Proof.Machine
end

section
/-! PROOFS. The condition: its table, an instruction whose condition fails, and the step at a word whose condition fails
(spec/10_state.md R45 to R47). -/

namespace Sys2Proof.Machine

/-- Settles O7: the table of codes, and each condition by the flags it reads. -/
theorem conditionTable : Obligations.ConditionTable := by
  refine ⟨rfl, fun f => ?_⟩
  obtain ⟨n, z, c, v⟩ := f
  simp [condPassed]

/-- Every ARM arm of `exec` opens with the test of its condition, and a THUMB instruction has none (R47, R48). -/
theorem exec_fail {i : Instr} {c : Cond} {s : State} (hi : armCond i = some c)
    (hc : ¬condPassed c s.cpsr.flags = true) : exec i s = .next (s.advance 4) := by
  cases i <;> cases hi <;> exact if_neg hc

/-- Settles O5: behind the failed test stands the advance by 4 alone. -/
theorem failedConditionIsNop : Obligations.FailedConditionIsNop :=
  fun _ _ _ hi hc => exec_fail hi (by simp [hc])

/-- With no event and a fetchable word in ARM state, the step runs that word (R566). -/
theorem step_of_fetchable_arm {s : State} (he : noEvent s) (hf : fetchable s) (ht : s.cpsr.t = false) :
    step s = s.sampled.runArm (s.mem.read s.pc .word) := by
  rw [step_of_fetchable he hf]
  simp [State.runFetched, State.fetchWidth, ht]

/-- A word whose condition fails is passed over without being decoded (R47). -/
theorem State.runArm_fail {s : State} {w : Word} {c : Cond} (hw : Cond.ofCode (w.extractLsb' 28 4) = some c)
    (hc : condPassed c s.cpsr.flags = false) : s.runArm w = .next (s.executing.advance 4) := by
  simp [State.runArm, hw, hc]

/-- A word with condition 1111b is refused, or passed over where the platform's switch says so (R46). -/
theorem State.runArm_nv {s : State} {w : Word} (hw : w.extractLsb' 28 4 = 15#4) :
    s.runArm w = if s.platform.nvNeverExecutes then .next (s.executing.advance 4) else .refused .cond1111 := by
  have none : Cond.ofCode 15#4 = none := rfl
  simp only [State.runArm, hw, none]

/-- Settles O6: the step runs the word at pc, and only a condition that passes lets it be decoded. -/
theorem conditionAtTheStep : Obligations.ConditionAtTheStep := by
  intro s he hf ht code skipped
  have hskip : skipped (s.sampled.executing.advance 4) := ⟨rfl, rfl, fun _ => rfl, rfl, fun _ => rfl⟩
  have hstep : step s = s.sampled.runArm (s.mem.read s.pc .word) := step_of_fetchable_arm he hf ht
  refine ⟨fun c hcode hc => ⟨_, hstep.trans (State.runArm_fail hcode hc), hskip⟩, fun hcode hnv => ?_,
    fun hcode hnv => ⟨_, ?_, hskip⟩⟩
  · rw [hstep, State.runArm_nv hcode]
    simp [hnv]
  · rw [hstep, State.runArm_nv hcode]
    simp [hnv]

end Sys2Proof.Machine
end

section
/-! PROOFS. Banking: which modes share a register (spec/10_state.md R21, R22). -/

namespace Sys2Proof.Machine

/-- When a register number names one physical register in two modes. -/
theorem physical_eq_iff (m m' : Mode) (i : Reg) (hi : i ≠ 15#4) :
    physical m i = physical m' i ↔
      m = m' ∨ i.toNat < 8 ∨ (i.toNat < 13 ∧ m ≠ .fiq ∧ m' ≠ .fiq) ∨
        ((m = .usr ∨ m = .sys) ∧ (m' = .usr ∨ m' = .sys)) := by
  cases m <;> cases m' <;> revert i <;> decide

/-- A register read in one mode after a write of it in another: what was written, when both name one register. -/
theorem State.regIn_setRegIn (s : State) (m m' : Mode) {i : Reg} (v a : Word) (hi : i ≠ 15#4) :
    (s.setRegIn m i v).regIn m' i a = if physical m i = physical m' i then v else s.regIn m' i a := by
  obtain ⟨g, hg⟩ := physical_some (m := m') hi
  simp only [State.regIn, hg, State.setRegIn_get]

/-- Settles O59: `physical_eq_iff` read off the register that was written. -/
theorem banking : Obligations.Banking := by
  intro s m m' i v a hi
  rw [State.regIn_setRegIn s m m' v a hi]
  exact if_congr (physical_eq_iff m m' i hi) rfl rfl

end Sys2Proof.Machine
end

section
/-! PROOFS. A well-formed instruction runs, or stops for one of three reasons that its operands do not decide: `Runs r`,
said once for each shared operation (spec/93_implementation_defined.md part A). -/

namespace Sys2Proof.Machine

/-- A next state, or a refusal for want of an SPSR, for an illegal mode or for a change of T by MSR. -/
def Runs (r : Result) : Prop :=
  (∃ t : State, r = .next t) ∨ r = .refused .noSpsr ∨ r = .refused .illegalMode ∨ r = .refused .tChangedByMsr

variable {c : Cond} {s : State} {sf : Bool} {rn rd rm : Reg} {f : AluFn}

theorem Runs.next {t : State} : Runs (.next t) := .inl ⟨t, rfl⟩
theorem Runs.noSpsr : Runs (.refused .noSpsr) := .inr (.inl rfl)
theorem Runs.illegalMode : Runs (.refused .illegalMode) := .inr (.inr (.inl rfl))
theorem Runs.tChangedByMsr : Runs (.refused .tChangedByMsr) := .inr (.inr (.inr rfl))

theorem Reg.notPc_iff {r : Reg} : r.notPc = true ↔ r ≠ 15#4 := bne_iff_ne

/-! ## Conditions and restrictions -/

/-- An instruction whose condition fails runs, so a proof may take the condition to pass. -/
theorem Runs.conditional {act : State → Result} (h : Runs (act s)) : Runs (conditional c s act) := by
  unfold Machine.conditional
  split
  · exact h
  · exact .next

theorem Runs.refuseIf {b : Bool} {e : Refusal} {k : Result} (hb : b = false) (h : Runs k) : Runs (refuseIf b e k) := by
  rwa [hb, refuseIf_false]

theorem Runs.checkWriteBack {wb : Bool} {k : Result} (hw : writeBackWf wb rn rd = true) (h : Runs k) :
    Runs (checkWriteBack wb rn rd k) := by
  rw [checkWriteBack_allowed]
  · exact h
  · rintro rfl
    simpa [writeBackWf, Reg.notPc_iff] using hw

theorem Runs.checkBlock {list : BitVec 16} {k : Result} (hw : blockWf rn list = true) (h : Runs k) :
    Runs (checkBlock rn list k) := by
  obtain ⟨hn, hl⟩ : rn ≠ 15#4 ∧ list ≠ 0#16 := by simpa [blockWf, Reg.notPc_iff] using hw
  rwa [checkBlock_allowed hn hl]

/-! ## Data processing, multiplies, PSR transfers -/

theorem Runs.exceptionReturn (target : Word) : Runs (s.exceptionReturn target) := by
  unfold State.exceptionReturn
  split
  · exact .noSpsr
  · split
    · exact .illegalMode
    · exact .next

theorem Runs.aluWrite (r : AluResult) : Runs (s.aluWrite sf rd r) := by
  unfold State.aluWrite
  split
  · split
    · exact .exceptionReturn _
    · exact .next
  · exact .next

theorem Runs.aluImm {o : Op2Imm} : Runs (aluImm f c sf rn rd o s) := .conditional (.aluWrite _)
theorem Runs.aluShImm {o : Op2ShImm} : Runs (aluShImm f c sf rn rd o s) := .conditional (.aluWrite _)
theorem Runs.moveImm {o : Op2Imm} : Runs (moveImm f c sf rd o s) := .conditional (.aluWrite _)
theorem Runs.moveShImm {o : Op2ShImm} : Runs (moveShImm f c sf rd o s) := .conditional (.aluWrite _)
theorem Runs.compareImm {o : Op2Imm} : Runs (compareImm f c rn o s) := .conditional .next
theorem Runs.compareShImm {o : Op2ShImm} : Runs (compareShImm f c rn o s) := .conditional .next

theorem Runs.shiftRegister {o : Op2ShReg} {k : Result} (ho : o.wf = true) (h : Runs k) :
    Runs (Machine.refuseIf (o.rs == 15#4) .shiftRegisterR15 k) :=
  .refuseIf (beq_false_of_ne (Reg.notPc_iff.mp ho)) h

theorem Runs.aluShReg {o : Op2ShReg} (ho : o.wf = true) : Runs (aluShReg f c sf rn rd o s) :=
  .conditional (.shiftRegister ho (.aluWrite _))
theorem Runs.moveShReg {o : Op2ShReg} (ho : o.wf = true) : Runs (moveShReg f c sf rd o s) :=
  .conditional (.shiftRegister ho (.aluWrite _))
theorem Runs.compareShReg {o : Op2ShReg} (ho : o.wf = true) : Runs (compareShReg f c rn o s) :=
  .conditional (.shiftRegister ho .next)

/-- `regs` are the registers beside Rd and Rm that `Instr.wellFormed` lists, in its order. -/
theorem Runs.multiply {rs : Reg} {others regs : List Reg} {acc : State → Word} (hw : multiplyWf rd rm regs = true)
    (hregs : rs :: others ⊆ regs) : Runs (multiply c sf rd rs rm others acc s) := by
  simp only [multiplyWf, List.all_eq_true, Bool.and_eq_true, bne_iff_ne, Reg.notPc_iff] at hw
  obtain ⟨⟨⟨hne, hd⟩, hm⟩, hall⟩ := hw
  have hs : rs ≠ 15#4 := hall rs (hregs List.mem_cons_self)
  have hothers : others.any (· == 15#4) = false := by
    simpa using fun r hr => hall r (hregs (List.mem_cons_of_mem rs hr))
  exact .conditional (.refuseIf (by simp [hd, hm, hs, hothers]) (.refuseIf (beq_false_of_ne hne) .next))

theorem Runs.longMultiply {product : Word → Word → BitVec 64} {accumulate : Bool} {rdHi rdLo rs : Reg}
    (hw : longMultiplyWf rdHi rdLo rs rm = true) : Runs (longMultiply product accumulate c sf rdHi rdLo rs rm s) := by
  simp only [longMultiplyWf, Bool.and_eq_true, bne_iff_ne, Reg.notPc_iff] at hw
  obtain ⟨⟨⟨⟨⟨⟨hhl, hhm⟩, hlm⟩, hh⟩, hl⟩, hs⟩, hm⟩ := hw
  exact .conditional (.refuseIf (by simp [hh, hl, hs, hm]) (.refuseIf (by simp [hhl, hhm, hlm]) .next))

theorem Runs.mrs (spsr : Bool) : Runs (s.mrs spsr rd) := by
  unfold State.mrs
  dsimp only
  split
  · split
    · exact .noSpsr
    · exact .next
  · exact .next

theorem Runs.msr (spsr : Bool) (m : FieldMask) (w : Word) : Runs (s.msr spsr m w) := by
  unfold State.msr
  split
  · unfold State.msrSpsr
    split
    · exact .noSpsr
    · exact .next
  · unfold State.msrCpsr Machine.refuseIf
    dsimp only
    split
    · exact .tChangedByMsr
    · split
      · exact .illegalMode
      · exact .next

/-! ## Transfers -/

theorem Runs.load {k : LoadKind} {user : Bool} {size : Word} {a : Addressing} : Runs (s.load k user size rn rd a) := by
  unfold State.load
  split
  · exact .next
  · split <;> exact .next

theorem Runs.store {k : StoreKind} {user : Bool} {size : Word} {a : Addressing} :
    Runs (s.store k user size rn rd a) := by
  unfold State.store
  split <;> exact .next

/-- A transfer that runs with every operand and address. -/
def Transfer.AlwaysRuns (op : Transfer) : Prop :=
  ∀ (s : State) (rn rd : Reg) (a : Addressing), Runs (op s rn rd a)

theorem Transfer.loadOp_runs (k : LoadKind) : Transfer.AlwaysRuns (loadOp k) := fun _ _ _ _ => .load
theorem Transfer.loadUserOp_runs (k : LoadKind) : Transfer.AlwaysRuns (loadUserOp k) := fun _ _ _ _ => .load
theorem Transfer.storeOp_runs (k : StoreKind) : Transfer.AlwaysRuns (storeOp k) := fun _ _ _ _ => .store
theorem Transfer.storeUserOp_runs (k : StoreKind) : Transfer.AlwaysRuns (storeUserOp k) := fun _ _ _ _ => .store

section Forms

variable {op : Transfer} {up wb : Bool}

theorem Runs.immPre {off : BitVec 12} (h : op.AlwaysRuns) (hw : writeBackWf wb rn rd = true) :
    Runs (immPre op c up wb rn rd off s) := .conditional (.checkWriteBack hw (h _ _ _ _))

theorem Runs.immPost {off : BitVec 12} (h : op.AlwaysRuns) (hw : writeBackWf true rn rd = true) :
    Runs (immPost op c up rn rd off s) := .conditional (.checkWriteBack hw (h _ _ _ _))

/-- A register offset and the write-back, as the register forms check them. -/
theorem Runs.offsetRegister {k : Result} (hw : (rm.notPc && writeBackWf wb rn rd) = true) (h : Runs k) :
    Runs (Machine.refuseIf (rm == 15#4) .rmR15InTransfer (Machine.checkWriteBack wb rn rd k)) := by
  obtain ⟨hm, hwb⟩ := Bool.and_eq_true_iff.mp hw
  exact .refuseIf (beq_false_of_ne (Reg.notPc_iff.mp hm)) (.checkWriteBack hwb h)

theorem Runs.regPre {o : Op2ShImm} (h : op.AlwaysRuns) (hw : (o.offsetWf && writeBackWf wb rn rd) = true) :
    Runs (regPre op c up wb rn rd o s) := .conditional (.offsetRegister hw (h _ _ _ _))

theorem Runs.regPost {o : Op2ShImm} (h : op.AlwaysRuns) (hw : (o.offsetWf && writeBackWf true rn rd) = true) :
    Runs (regPost op c up rn rd o s) := .conditional (.offsetRegister hw (h _ _ _ _))

theorem Runs.halfReg {ix : HalfIndex} (h : op.AlwaysRuns) (hw : (rm.notPc && writeBackWf ix.writesBack rn rd) = true) :
    Runs (halfReg op c ix up rn rd rm s) := .conditional (.offsetRegister hw (h _ _ _ _))

theorem Runs.halfImm {ix : HalfIndex} {off : BitVec 8} (h : op.AlwaysRuns)
    (hw : writeBackWf ix.writesBack rn rd = true) : Runs (halfImm op c ix up rn rd off s) :=
  .conditional (.checkWriteBack hw (h _ _ _ _))

end Forms

/-! ## Block transfers, swap, coprocessors, THUMB -/

theorem Runs.storeBlock {m : Mode} {size : Word} {b : Block} : Runs (s.storeBlock m size b) := by
  unfold State.storeBlock
  split <;> exact .next

theorem Runs.loadBlock {m : Mode} {b : Block} {finish : Word → State → Result}
    (h : ∀ (last : Word) (t : State), Runs (finish last t)) : Runs (s.loadBlock m b finish) := by
  unfold State.loadBlock
  dsimp only
  split
  · exact .next
  · exact h _ _

theorem Runs.finishLoad {list : BitVec 16} {size : Word} {align : Word → Word} (last : Word) (t : State) :
    Runs (finishLoad list size align last t) := by
  unfold Machine.finishLoad
  split <;> exact .next

/-- A list extended with zeros is empty only when it is. -/
theorem place_zero_eq_zero_iff {n : Nat} (hn : n ≤ 16) (list : BitVec n) : place 16 0 list = 0#16 ↔ list = 0 := by
  simp only [place, ← BitVec.toNat_inj, BitVec.shiftLeft_zero, BitVec.toNat_setWidth, BitVec.ofNat_eq_ofNat,
    BitVec.toNat_ofNat, Nat.zero_mod]
  rw [Nat.mod_eq_of_lt (lt_of_lt_of_le list.isLt (Nat.pow_le_pow_right (by decide) hn))]

/-- The list of PUSH and POP is empty only when no register is named. -/
theorem stackList_ne_zero {bit : Nat} (hbit : bit = 14 ∨ bit = 15) {extra : Bool} {list : BitVec 8}
    (h : (extra || list != 0) = true) : stackList bit extra list ≠ 0#16 := by
  intro h0
  obtain ⟨hextra, hlist⟩ := BitVec.or_eq_zero_iff.mp h0
  rw [place_zero_eq_zero_iff (by decide)] at hlist
  subst hlist
  rcases hbit with rfl | rfl <;> cases extra <;> revert h hextra <;> decide

theorem Runs.swap {k : LoadKind} {st : StoreKind} (hw : (rn.notPc && rd.notPc && rm.notPc) = true) :
    Runs (s.swap k st rn rd rm) := by
  simp only [Bool.and_eq_true, Reg.notPc_iff] at hw
  obtain ⟨⟨hn, hd⟩, hm⟩ := hw
  refine .refuseIf (by simp [hn, hd, hm]) ?_
  dsimp only
  split
  · exact .next
  · split <;> exact .next

/-- An absent coprocessor's instruction takes the Undefined Instruction exception, so a proof may take it as attached. -/
theorem Runs.coprocessor {p : BitVec 4} {act : State → Result} (h : Runs (act s)) : Runs (coprocessor c p s act) := by
  refine .conditional ?_
  split
  · exact h
  · exact .next

theorem Runs.coprocWriteBack {wb : Bool} {k : Result} (hw : (!wb || rn.notPc) = true) (h : Runs k) :
    Runs (Machine.refuseIf (wb && rn == 15#4) .writebackR15 k) := by
  refine .refuseIf ?_ h
  cases wb
  · rfl
  · exact beq_false_of_ne (Reg.notPc_iff.mp hw)

theorem Runs.ldc {long : Bool} {cd p : BitVec 4} {a : Addressing} : Runs (s.ldc long rn cd p a) := by
  unfold State.ldc
  dsimp only
  split <;> exact .next

theorem Runs.stc {long : Bool} {cd p : BitVec 4} {a : Addressing} : Runs (s.stc long rn cd p a) := by
  unfold State.stc
  dsimp only
  split <;> exact .next

theorem Runs.thumbHiWrite {d : Reg} {v : Word} : Runs (s.thumbHiWrite d v) := by
  unfold State.thumbHiWrite
  split <;> exact .next

theorem Runs.thumbCondBranch {off : BitVec 8} : Runs (s.thumbCondBranch c off) := by
  unfold State.thumbCondBranch
  split <;> exact .next

/-! ## All instructions -/

/-- Settles O26, family by family: the shared operation runs under the restriction that `Instr.wellFormed` states. -/
theorem wellFormedRuns : Obligations.WellFormedRuns := by
  intro i s h
  change Runs (exec i s)
  cases i with
  | b | bl | swi | undefined =>
    simp only [exec]
    exact .conditional .next
  | bx =>
    simp only [exec]
    exact .conditional (.refuseIf (beq_false_of_ne (Reg.notPc_iff.mp h)) .next)
  | andImm | eorImm | subImm | rsbImm | addImm | adcImm | sbcImm | rscImm | orrImm | bicImm => exact .aluImm
  | andShImm | eorShImm | subShImm | rsbShImm | addShImm | adcShImm | sbcShImm | rscShImm | orrShImm | bicShImm =>
    exact .aluShImm
  | andShReg | eorShReg | subShReg | rsbShReg | addShReg | adcShReg | sbcShReg | rscShReg | orrShReg | bicShReg =>
    exact .aluShReg h
  | tstImm | teqImm | cmpImm | cmnImm => exact .compareImm
  | tstShImm | teqShImm | cmpShImm | cmnShImm => exact .compareShImm
  | tstShReg | teqShReg | cmpShReg | cmnShReg => exact .compareShReg h
  | movImm | mvnImm => exact .moveImm
  | movShImm | mvnShImm => exact .moveShImm
  | movShReg | mvnShReg => exact .moveShReg h
  | mul | mla =>
    simp only [exec, execMul, execMla]
    exact .multiply h (by simp)
  | umull | umlal | smull | smlal =>
    simp only [exec]
    exact .longMultiply h
  | mrs =>
    simp only [exec]
    exact .conditional (.refuseIf (beq_false_of_ne (Reg.notPc_iff.mp h)) (.mrs _))
  | msrReg =>
    simp only [exec]
    exact .conditional (.refuseIf (beq_false_of_ne (Reg.notPc_iff.mp h)) (.msr _ _ _))
  | msrImm =>
    simp only [exec]
    exact .conditional (.msr _ _ _)
  | ldrImmPre | ldrbImmPre => exact .immPre (Transfer.loadOp_runs _) h
  | ldrImmPost | ldrbImmPost => exact .immPost (Transfer.loadOp_runs _) h
  | ldrRegPre | ldrbRegPre => exact .regPre (Transfer.loadOp_runs _) h
  | ldrRegPost | ldrbRegPost => exact .regPost (Transfer.loadOp_runs _) h
  | strImmPre | strbImmPre => exact .immPre (Transfer.storeOp_runs _) h
  | strImmPost | strbImmPost => exact .immPost (Transfer.storeOp_runs _) h
  | strRegPre | strbRegPre => exact .regPre (Transfer.storeOp_runs _) h
  | strRegPost | strbRegPost => exact .regPost (Transfer.storeOp_runs _) h
  | ldrtImm | ldrbtImm => exact .immPost (Transfer.loadUserOp_runs _) h
  | ldrtReg | ldrbtReg => exact .regPost (Transfer.loadUserOp_runs _) h
  | strtImm | strbtImm => exact .immPost (Transfer.storeUserOp_runs _) h
  | strtReg | strbtReg => exact .regPost (Transfer.storeUserOp_runs _) h
  | strhReg => exact .halfReg (Transfer.storeOp_runs _) h
  | strhImm => exact .halfImm (Transfer.storeOp_runs _) h
  | ldrhReg | ldrsbReg | ldrshReg => exact .halfReg (Transfer.loadOp_runs _) h
  | ldrhImm | ldrsbImm | ldrshImm => exact .halfImm (Transfer.loadOp_runs _) h
  | stm =>
    simp only [exec]
    exact .conditional (.checkBlock h .storeBlock)
  | ldm =>
    simp only [exec]
    exact .conditional (.checkBlock h (.loadBlock .finishLoad))
  | ldmPcS =>
    simp only [exec, execLdmPcS]
    refine .conditional (.refuseIf (beq_false_of_ne (Reg.notPc_iff.mp h)) ?_)
    unfold refuseIf
    split
    · exact .noSpsr
    · exact .loadBlock fun last t => .exceptionReturn last
  | stmS =>
    simp only [exec]
    obtain ⟨hblock, hwb⟩ := Bool.and_eq_true_iff.mp h
    exact .conditional (.checkBlock hblock (.refuseIf (by simpa using hwb) .storeBlock))
  | ldmUserS c pre up wb rn list =>
    simp only [exec, execLdmUserS]
    obtain ⟨hblock, hwb⟩ := Bool.and_eq_true_iff.mp h
    have hfull : blockWf rn (place 16 0 list) = true := by
      simpa [blockWf, place_zero_eq_zero_iff] using hblock
    exact .conditional (.checkBlock hfull (.refuseIf (by simpa using hwb) (.loadBlock fun _ _ => .next)))
  | swp | swpb =>
    simp only [exec]
    exact .conditional (.swap h)
  | mrc | mcr | cdp =>
    simp only [exec]
    exact .coprocessor .next
  | ldc =>
    simp only [exec]
    exact .coprocessor (.coprocWriteBack h .ldc)
  | stc =>
    simp only [exec]
    exact .coprocessor (.coprocWriteBack h .stc)
  | tLslImm | tLsrImm | tAsrImm | tAddReg | tSubReg | tAddImm3 | tSubImm3 | tMovImm8 | tCmpImm8 | tAddImm8 | tSubImm8
  | tAnd | tEor | tLslReg | tLsrReg | tAsrReg | tAdc | tSbc | tRor | tTst | tNeg | tCmpReg | tCmn | tOrr | tMul | tBic
  | tMvn | tCmpHiDst | tCmpHiSrc | tBx | tAddPc | tAddSp | tSpAdd | tSpSub | tSwi | tB | tBlFirst | tBlSecond =>
    exact .next
  | tAddHiDst | tAddHiSrc | tMovHiDst | tMovHiSrc => exact .thumbHiWrite
  | tLdrPc | tLdrReg | tLdrbReg | tLdsbReg | tLdrhReg | tLdshReg | tLdrImm | tLdrbImm | tLdrhImm | tLdrSp =>
    exact .load
  | tStrReg | tStrbReg | tStrhReg | tStrImm | tStrbImm | tStrhImm | tStrSp => exact .store
  | tPush => exact .refuseIf (beq_false_of_ne (stackList_ne_zero (.inl rfl) h)) .storeBlock
  | tPop => exact .refuseIf (beq_false_of_ne (stackList_ne_zero (.inr rfl) h)) (.loadBlock .finishLoad)
  | tStmia rb list =>
    have hlist : list ≠ 0 := bne_iff_ne.mp h
    exact .refuseIf (beq_false_of_ne (mt (place_zero_eq_zero_iff (by decide) list).mp hlist)) .storeBlock
  | tLdmia rb list =>
    have hlist : list ≠ 0 := bne_iff_ne.mp h
    exact .refuseIf (beq_false_of_ne (mt (place_zero_eq_zero_iff (by decide) list).mp hlist)) (.loadBlock .finishLoad)
  | tBeq | tBne | tBcs | tBcc | tBmi | tBpl | tBvs | tBvc | tBhi | tBls | tBge | tBlt | tBgt | tBle =>
    exact .thumbCondBranch

end Sys2Proof.Machine
end

section
/-! PROOFS. Memory: what is read back after a write, and which instructions write at all (spec/20_memory.md R61, R70,
R80). -/

namespace Sys2Proof.Machine

/-! ## Reads by their bytes -/

/-- Byte `k` put above the `k` bytes below it (R61). -/
theorem place_byteOf_or {m n : Nat} (v : BitVec m) (k : Nat) :
    place n (8 * k) (byteOf v k) ||| (v.setWidth (8 * k)).setWidth n = (v.setWidth (8 * (k + 1))).setWidth n := by
  apply BitVec.eq_of_getLsbD_eq
  intro i hi
  simp only [BitVec.getLsbD_or, getLsbD_place, byteOf, BitVec.getLsbD_extractLsb', BitVec.getLsbD_setWidth, hi,
    decide_true, Bool.true_and]
  by_cases hlow : i < 8 * k
  · simp [hlow, show i < 8 * (k + 1) by omega]
  · have hplace : 8 * k + (i - 8 * k) = i := by omega
    have hbyte : i - 8 * k < 8 ↔ i < 8 * (k + 1) := by omega
    simp [hlow, hplace, hbyte]

theorem byteOf_zero {m : Nat} (v : BitVec m) : byteOf v 0 = v.setWidth 8 := by
  apply BitVec.eq_of_getLsbD_eq
  intro i hi
  simp [byteOf, hi]

theorem place_byteOf_zero {m n : Nat} (v : BitVec m) : place n 0 (byteOf v 0) = (v.setWidth 8).setWidth n := by
  rw [place, byteOf_zero, BitVec.shiftLeft_zero]

/-- A halfword is put together from its own two bytes. -/
theorem halfOfBytes_byteOf (v : Word) : halfOfBytes (byteOf v 0) (byteOf v 1) = v.setWidth 16 := by
  rw [halfOfBytes, place_byteOf_zero]
  exact (place_byteOf_or v 1).trans (BitVec.setWidth_eq _)

/-- A word is put together from its own four bytes. -/
theorem wordOfBytes_byteOf (v : Word) : wordOfBytes (byteOf v 0) (byteOf v 1) (byteOf v 2) (byteOf v 3) = v := by
  have one := place_byteOf_or (n := 32) v 1
  have two := place_byteOf_or (n := 32) v 2
  have three := place_byteOf_or (n := 32) v 3
  rw [wordOfBytes, place_byteOf_zero, BitVec.or_assoc, BitVec.or_assoc, one, two, three]
  simp

/-- The low bits of a word, as a mask. -/
theorem setWidth_setWidth_eq_and (v : Word) (n : Nat) :
    (v.setWidth n).setWidth 32 = v &&& BitVec.ofNat 32 (2 ^ n - 1) := by
  apply BitVec.eq_of_getLsbD_eq
  intro i hi
  simp only [BitVec.getLsbD_setWidth, BitVec.getLsbD_and, BitVec.getLsbD_ofNat, Nat.testBit_two_pow_sub_one, hi,
    decide_true, Bool.true_and, Bool.and_comm]

/-- A read depends on the bytes of its access only. -/
theorem Memory.read_congr {m m' : Memory} {a : Word} {w : Width}
    (h : ∀ k : Nat, k < widthBytes w → m.get (a.toNat + k) = m'.get (a.toNat + k)) : m.read a w = m'.read a w := by
  have h0 (hw : 0 < widthBytes w) : m.get a.toNat = m'.get a.toNat := h 0 hw
  cases w with
  | byte => simp only [Memory.read, h0 (by decide)]
  | half => simp only [Memory.read, h0 (by decide), h 1 (by decide)]
  | word => simp only [Memory.read, h0 (by decide), h 1 (by decide), h 2 (by decide), h 3 (by decide)]

/-- Where memory holds the low bytes of a value, a read delivers its low bits (R61). -/
theorem Memory.read_of_bytes {m : Memory} {a v : Word} {w : Width}
    (h : ∀ k : Nat, k < widthBytes w → m.get (a.toNat + k) = byteOf v k) :
    m.read a w = v &&& BitVec.ofNat 32 (2 ^ (8 * widthBytes w) - 1) := by
  have h0 (hw : 0 < widthBytes w) : m.get a.toNat = byteOf v 0 := h 0 hw
  rw [← setWidth_setWidth_eq_and]
  cases w with
  | byte => simp only [Memory.read, h0 (by decide), byteOf_zero, zext, widthBytes]
  | half => simp only [Memory.read, h0 (by decide), h 1 (by decide), halfOfBytes_byteOf, zext, widthBytes]
  | word =>
    simp only [Memory.read, h0 (by decide), h 1 (by decide), h 2 (by decide), h 3 (by decide), wordOfBytes_byteOf,
      widthBytes, BitVec.setWidth_eq]

/-- A read beside a write is not affected by it, whatever the form of the memory. -/
theorem Memory.read_write_other (m : Memory) {a b : Word} {w w' : Width} (v : Word)
    (h : b.toNat + widthBytes w' ≤ a.toNat ∨ a.toNat + widthBytes w ≤ b.toNat) :
    (m.write a w v).read b w' = m.read b w' :=
  Memory.read_congr fun k hk => Memory.get_write_other m a w v _ (by omega)

/-- Settles O60: the bytes written are the bytes read, and the bytes beside them are as they were. -/
theorem memoryReadBack : Obligations.MemoryReadBack :=
  fun m _ _ _ _ v hm hroom =>
    ⟨Memory.read_of_bytes fun _ hk => Memory.get_write_inside hm v hroom hk, Memory.read_write_other m v⟩

/-! ## Stores alone write -/

/-- What an instruction that is no store can do leaves memory as it is (R70, R547). -/
theorem Effect.mem_eq {i : Instr} {s t : State} (h : Effect i s t) (hi : storesMemory i = false) : t.mem = s.mem := by
  cases h with
  | proceed _ _ _ _ _ _ mem => exact mem hi
  | jump _ _ _ _ mem => exact mem hi
  | trap _ _ _ _ _ _ _ mem => exact mem hi
  | restore _ _ _ _ _ mem => exact mem
  | exchange => rfl
  | psr _ _ _ _ mem => exact mem

/-- Settles O25, by cases on what an instruction can do. -/
theorem onlyStoresStore : Obligations.OnlyStoresStore :=
  fun i s t hi hx a => congrArg (Memory.get · a) ((exec_effect i s t hx).mem_eq hi)

end Sys2Proof.Machine
end

section
/-! PROOFS. The stale-fetch window (spec/20_memory.md R84): what is refused, and how every step, a store and a branch
move the window. -/

namespace Sys2Proof.Machine

/-! ## The refusal -/

/-- Two ranges that both reach one address without wrapping round 2^32 share a byte. -/
theorem overlaps_of_common {a c : Word} {n m b : Nat} (ha : a.toNat ≤ b) (hb : b < a.toNat + n) (hc : c.toNat ≤ b)
    (hd : b < c.toNat + m) : overlaps a n c m = true := by
  simp only [overlaps, Bool.or_eq_true, decide_eq_true_eq]
  rcases Nat.le_total a.toNat c.toNat with h | h
  · left
    rw [BitVec.toNat_sub_of_le h]
    omega
  · right
    rw [BitVec.toNat_sub_of_le h]
    omega

/-- A store in the window that wrote a byte of the instruction makes it stale (R84). -/
theorem State.stale_of_common {s : State} {w : Span} {b size : Nat} (hw : w ∈ s.window.last ++ s.window.prev)
    (h : w.addr.toNat ≤ b) (h' : b < w.addr.toNat + w.len) (hpc : s.pc.toNat ≤ b) (hpc' : b < s.pc.toNat + size) :
    s.stale size = true :=
  List.any_eq_true.mpr ⟨w, hw, overlaps_of_common h h' hpc hpc'⟩

/-- A stale instruction is refused before its condition is looked at (R84, R566). -/
theorem runInstruction_of_stale {s : State} (hpc : pcAligned s)
    (ha : s.aborts .fetch s.userMode s.pc s.fetchWidth = false) (hs : s.stale (widthBytes s.fetchWidth) = true) :
    s.runInstruction = .refused .staleFetch := by
  simp [State.runInstruction, (alignPc_pc_iff s).mpr hpc, ha, hs]

/-! ## The window after an instruction and after a step -/

@[simp] theorem State.executing_window (s : State) : s.executing.window = ⟨[], s.window.last⟩ := rfl
@[simp] theorem State.fetched_window (s : State) : s.fetched.window = s.window := State.take_window s.sampled _ _
@[simp] theorem State.forget_window (s : State) : s.forget.window = s.window := rfl
@[simp] theorem State.takeReset_window (s : State) : s.takeReset.window = ⟨[], []⟩ := rfl

/-- Every write to the PC leaves the window empty; what goes on to the next instruction notes its stores (R84). -/
theorem Effect.window {i : Instr} {s t : State} (h : Effect i s t) :
    t.window = ⟨[], []⟩ ∨ (t.pc = s.pc + 4 ∨ t.pc = s.pc + 2) ∧ NotesStores s t := by
  cases h with
  | proceed u n f quiet size =>
    have hpc : u.pc = s.pc := quiet.pc
    refine .inr ⟨?_, quiet.noted.trans (.of_same rfl rfl)⟩
    rcases size with rfl | ⟨rfl, -⟩
    · exact .inl (by simp [hpc])
    · exact .inr (by simp [hpc])
  | jump => exact .inl rfl
  | trap => exact .inl rfl
  | restore => exact .inl rfl
  | exchange => exact .inl rfl
  | psr _ _ pc _ mem window => exact .inr ⟨.inl pc, .of_same window mem⟩

/-- The window as an instruction that a step runs finds it: moved on by one instruction. -/
theorem NotesStores.of_executing {s t : State} (h : NotesStores s.fetched.executing t) :
    NotesStores { s with window := ⟨[], s.window.last⟩ } t :=
  (NotesStores.of_same (by simp) (by simp)).trans h

/-- What a step makes of the window. -/
theorem StepEffect.window {s t : State} (h : StepEffect s t) :
    t.window = ⟨[], []⟩ ∨
      (noEvent s ∧ (t.pc = s.pc + 4 ∨ t.pc = s.pc + 2) ∧
        NotesStores { s with window := ⟨[], s.window.last⟩ } t) := by
  cases h with
  | reset => exact .inl rfl
  | fiq => exact .inl rfl
  | irq => exact .inl rfl
  | prefetchAbort => exact .inl rfl
  | skip quiet => exact .inr ⟨quiet, .inl (by simp), .of_executing (.of_same rfl rfl)⟩
  | run i t quiet _ runs =>
    refine (exec_effect i _ t runs).window.imp_right fun ⟨hpc, hnotes⟩ => ⟨quiet, ?_, .of_executing hnotes⟩
    simpa using hpc

/-! ## STR, STRB and their T forms -/

@[simp] theorem State.put_window (s : State) (addr : Word) (w : Width) (v : Word) :
    (s.put addr w v).window = ⟨⟨addr, widthBytes w⟩ :: s.window.last, s.window.prev⟩ := by
  unfold State.put
  split <;> rfl

@[simp] theorem State.writeBack_window (s : State) (rn : Reg) (a : Addressing) :
    (s.writeBack rn a).window = s.window := by
  unfold State.writeBack
  split <;> simp

/-- A store that does not abort, of RAM or of a device. -/
theorem State.store_of_not_aborts {s : State} {k : StoreKind} {user : Bool} {size : Word} {rn rd : Reg}
    {a : Addressing} (h : s.aborts .write user a.ea k.width = false) :
    s.store k user size rn rd a =
      .next (((s.put (k.address a.ea) k.width (s.reg rd 12)).writeBack rn a).advance size) := by
  simp [State.store, State.busWrite, h]

/-- The store that a single transfer makes: STR a word, STRB a byte. -/
inductive SingleOp.Stores : SingleOp → StoreKind → Prop where
  | str : Stores .str .word
  | strb : Stores .strb .byte

theorem SingleOp.Stores.width_eq {op : SingleOp} {k : StoreKind} (h : op.Stores k) : k.width = op.width := by
  cases h <;> rfl

theorem SingleOp.Stores.address_eq {op : SingleOp} {k : StoreKind} (h : op.Stores k) (ea : Word) :
    k.address ea = op.address ea := by
  cases h <;> rfl

/-- `ea`, and `idx` where the form writes it back (spec/44_arm_single_transfer.md R261). -/
def SingleForm.addressing (f : SingleForm) (up : Bool) (rn : Reg) (s : State) : Addressing :=
  ⟨f.ea up rn s, if f.wb then some (f.idx up rn s) else none⟩

/-- STR and STRB in each form, condition passed and operands allowed, are the one store (R261, R263). -/
theorem exec_singleStore {op : SingleOp} {k : StoreKind} (hop : op.Stores k) {f : SingleForm} {c : Cond} {up : Bool}
    {rn rd : Reg} {s : State} (hc : condPassed c s.cpsr.flags = true) (hf : f.allowed rn rd) :
    exec (op.instr c up rn rd f) s = s.store k (f.user s) 4 rn rd (f.addressing up rn s) := by
  obtain ⟨hrm, hwb⟩ := hf
  cases f with
  | immPre wb off => cases hop <;> exact immPre_pass hc hwb
  | immPost off => cases hop <;> exact immPost_pass hc (hwb rfl)
  | regPre wb o => cases hop <;> exact regPre_pass hc hrm hwb
  | regPost o => cases hop <;> exact regPost_pass hc hrm (hwb rfl)
  | immT off => cases hop <;> exact immPost_pass hc (hwb rfl)
  | regT o => cases hop <;> exact regPost_pass hc hrm (hwb rfl)

/-- STR and STRB note the bytes of their access, of RAM or of a device (log 27). -/
theorem singleStore_window {op : SingleOp} {k : StoreKind} (hop : op.Stores k) {f : SingleForm} {c : Cond} {up : Bool}
    {rn rd : Reg} {s : State} (hc : condPassed c s.cpsr.flags = true) (hf : f.allowed rn rd)
    (ha : s.aborts .write (f.user s) (f.ea up rn s) op.width = false) :
    ∃ t : State, exec (op.instr c up rn rd f) s = .next t ∧
      t.window = ⟨⟨op.address (f.ea up rn s), widthBytes op.width⟩ :: s.window.last, s.window.prev⟩ := by
  have ha' : s.aborts .write (f.user s) (f.addressing up rn s).ea k.width = false := by rwa [hop.width_eq]
  refine ⟨_, (exec_singleStore hop hc hf).trans (State.store_of_not_aborts ha'), ?_⟩
  simp [hop.width_eq, hop.address_eq, SingleForm.addressing]

/-! ## B, and the statement -/

/-- B, condition passed (spec/40_arm_branch.md R150). -/
theorem exec_b_pass {c : Cond} {off : BitVec 24} {s : State} (hc : condPassed c s.cpsr.flags = true) :
    exec (.b c off) s = .next (s.branchTo (s.pc + 8 + sext off * 4)) := by
  simp only [exec, execB, conditional_pass hc]

/-- Settles O8: the refusal by `runInstruction_of_stale`, the window by what a step, a store and a branch do. -/
theorem staleFetchRefused : Obligations.StaleFetchRefused := by
  refine ⟨fun s w b he hpc ha hw h h' hb hb' => ?_, fun s t hstep => (step_effect s t hstep).window,
    fun op f c up rn rd s hop hc hf ha => ?_, fun c off s hc => ⟨_, exec_b_pass hc, rfl⟩⟩
  · rw [step_of_noEvent he]
    exact runInstruction_of_stale (s := s.sampled) hpc ha (State.stale_of_common (s := s.sampled) hw h h' hb hb')
  · rcases hop with rfl | rfl
    · exact singleStore_window .str hc hf ha
    · exact singleStore_window .strb hc hf ha

end Sys2Proof.Machine
end

section
/-! PROOFS. Fields of codes: what a field of an assembled code is, and that a code is known by its consecutive fields
(spec/30_encoding.md R103 to R122). -/

namespace Sys2Proof

section Fields

variable {k n p lo len i : Nat}

@[simp] theorem place_self (x : BitVec k) : place k 0 x = x := by simp [place]

/-- Above a value's width there are only zeros. -/
@[simp] theorem slice_beyond (x : BitVec k) (h : k ≤ lo) : x.extractLsb' lo len = 0#len := by
  apply BitVec.eq_of_getLsbD_eq
  intro i hi
  simp [hi, BitVec.getLsbD_of_ge x (lo + i) (by omega)]

/-- A field that starts at or above the place where a value was put. -/
@[simp] theorem slice_place (x : BitVec k) (h : p ≤ lo) (hn : lo + len ≤ n) :
    (place n p x).extractLsb' lo len = x.extractLsb' (lo - p) len := by
  apply BitVec.eq_of_getLsbD_eq
  intro i hi
  have hbelow : lo + i < n := by omega
  have habove : ¬lo + i < p := by omega
  simp only [BitVec.getLsbD_extractLsb', getLsbD_place, hbelow, habove, decide_true, decide_false, Bool.not_false,
    Bool.true_and, Nat.sub_add_comm h]

/-- A field of a field. -/
@[simp] theorem slice_slice (x : BitVec n) (h : lo + len ≤ k) :
    (x.extractLsb' p k).extractLsb' lo len = x.extractLsb' (p + lo) len := by
  apply BitVec.eq_of_getLsbD_eq
  intro i hi
  simp [hi, show lo + i < k by omega, Nat.add_assoc]

@[simp] theorem slice_place_below (x : BitVec k) (h : lo + len ≤ p) : (place n p x).extractLsb' lo len = 0#len :=
  slice_place_off x (.inl h)

@[simp] theorem getElem_place (x : BitVec k) (hi : i < n) :
    (place n p x)[i] = (!decide (i < p) && x.getLsbD (i - p)) := by
  rw [← BitVec.getLsbD_eq_getElem, getLsbD_place]
  simp [hi]

theorem getLsbD_eq_slice (x : BitVec n) (i : Nat) : x.getLsbD i = (x.extractLsb' i 1).getLsbD 0 := by simp

/-- A field of one bit. -/
theorem slice_one (x : BitVec n) (i : Nat) : x.extractLsb' i 1 = BitVec.ofBool (x.getLsbD i) := by
  apply BitVec.eq_of_getLsbD_eq
  intro j hj
  obtain rfl : j = 0 := by omega
  simp

/-- `x` and `y` agree on consecutive fields of these widths, the first at bit `lo`. -/
def AgreeOn (x y : BitVec n) : Nat → List Nat → Prop
  | _, [] => True
  | lo, k :: ks => x.extractLsb' lo k = y.extractLsb' lo k ∧ AgreeOn x y (lo + k) ks

theorem AgreeOn.bit {x y : BitVec n} {ks : List Nat} (h : AgreeOn x y lo ks) (hlo : lo ≤ i) (hi : i < lo + ks.sum) :
    x.getLsbD i = y.getLsbD i := by
  induction ks generalizing lo with
  | nil => simp only [List.sum_nil] at hi; omega
  | cons k ks ih =>
    obtain ⟨hfield, hrest⟩ := h
    by_cases hin : i < lo + k
    · have hbit := congrArg (·.getLsbD (i - lo)) hfield
      simpa [show lo + (i - lo) = i by omega, show i - lo < k by omega] using hbit
    · exact ih hrest (by omega) (by rw [List.sum_cons] at hi; omega)

/-- Two values are equal when they agree on fields that cover them. -/
theorem eq_of_agreeOn {x y : BitVec n} (ks : List Nat) (hks : ks.sum = n) (h : AgreeOn x y 0 ks) : x = y :=
  BitVec.eq_of_getLsbD_eq fun i hi => h.bit (Nat.zero_le i) (by omega)

end Fields

/-! ## The values of a narrow field -/

theorem two_bits (x : BitVec 2) : x = 0#2 ∨ x = 1#2 ∨ x = 2#2 ∨ x = 3#2 := by
  revert x
  decide

theorem three_bits (x : BitVec 3) :
    x = 0#3 ∨ x = 1#3 ∨ x = 2#3 ∨ x = 3#3 ∨ x = 4#3 ∨ x = 5#3 ∨ x = 6#3 ∨ x = 7#3 := by
  revert x
  decide

theorem four_bits (x : BitVec 4) :
    x = 0#4 ∨ x = 1#4 ∨ x = 2#4 ∨ x = 3#4 ∨ x = 4#4 ∨ x = 5#4 ∨ x = 6#4 ∨ x = 7#4 ∨ x = 8#4 ∨ x = 9#4 ∨
      x = 10#4 ∨ x = 11#4 ∨ x = 12#4 ∨ x = 13#4 ∨ x = 14#4 ∨ x = 15#4 := by
  revert x
  decide

@[simp] theorem Cond.ofCode_code (c : Cond) : Cond.ofCode c.code = some c := by cases c <;> rfl

theorem Cond.code_of_ofCode {x : BitVec 4} {c : Cond} (h : Cond.ofCode x = some c) : x = c.code := by
  revert c x
  decide

@[simp] theorem ShiftType.ofCode_code (t : ShiftType) : ShiftType.ofCode t.code = t := by cases t <;> rfl

@[simp] theorem ShiftType.code_ofCode (x : BitVec 2) : (ShiftType.ofCode x).code = x := by
  revert x
  decide

/-! ## Fields of an ARM word -/

section ArmWord

variable {c : Cond} {top : BitVec 8} {a b : BitVec 4} {low : BitVec 12} {lo len i : Nat}

@[simp] theorem armWord_cond : (armWord c top a b low).extractLsb' 28 4 = c.code := Laws.armWord_condition ..

@[simp] theorem armWord_top (h : 20 ≤ lo) (h' : lo + len ≤ 28) :
    (armWord c top a b low).extractLsb' lo len = top.extractLsb' (lo - 20) len := by
  simp (disch := omega) [armWord, BitVec.extractLsb'_or]

@[simp] theorem armWord_r16 (h : 16 ≤ lo) (h' : lo + len ≤ 20) :
    (armWord c top a b low).extractLsb' lo len = a.extractLsb' (lo - 16) len := by
  simp (disch := omega) [armWord, BitVec.extractLsb'_or]

@[simp] theorem armWord_r12 : (armWord c top a b low).extractLsb' 12 4 = b := by
  simp [armWord, BitVec.extractLsb'_or]

@[simp] theorem armWord_low (h : lo + len ≤ 12) :
    (armWord c top a b low).extractLsb' lo len = low.extractLsb' lo len := by
  simp (disch := omega) [armWord, BitVec.extractLsb'_or]

@[simp] theorem armWord_topBit (h : 20 ≤ i) (h' : i < 28) (hi : i < 32) :
    (armWord c top a b low)[i] = top[i - 20] := by
  rw [← BitVec.getLsbD_eq_getElem, getLsbD_eq_slice, armWord_top h h', ← getLsbD_eq_slice,
    BitVec.getLsbD_eq_getElem]

@[simp] theorem armWord_r16Bit (h : 16 ≤ i) (h' : i < 20) (hi : i < 32) :
    (armWord c top a b low)[i] = a[i - 16] := by
  rw [← BitVec.getLsbD_eq_getElem, getLsbD_eq_slice, armWord_r16 h h', ← getLsbD_eq_slice,
    BitVec.getLsbD_eq_getElem]

@[simp] theorem armWord_lowBit (h : i < 12) (hi : i < 32) : (armWord c top a b low)[i] = low[i] := by
  rw [← BitVec.getLsbD_eq_getElem, getLsbD_eq_slice, armWord_low h, ← getLsbD_eq_slice, BitVec.getLsbD_eq_getElem]

end ArmWord

section Tops

variable {cls : BitVec 3} {p u b w l imm sf : Bool} {op : BitVec 4}

@[simp] theorem transferTop_class : (transferTop cls p u b w l).extractLsb' 5 3 = cls := by
  simp [transferTop, placeBit, BitVec.extractLsb'_or]

@[simp] theorem transferTop_p : (transferTop cls p u b w l)[4] = p := by simp [transferTop, placeBit]
@[simp] theorem transferTop_u : (transferTop cls p u b w l)[3] = u := by simp [transferTop, placeBit]
@[simp] theorem transferTop_b : (transferTop cls p u b w l)[2] = b := by simp [transferTop, placeBit]
@[simp] theorem transferTop_w : (transferTop cls p u b w l)[1] = w := by simp [transferTop, placeBit]
@[simp] theorem transferTop_l : (transferTop cls p u b w l)[0] = l := by simp [transferTop, placeBit]

@[simp] theorem aluTop_class : (aluTop imm op sf).extractLsb' 5 3 = if imm then 1#3 else 0#3 := by
  cases imm <;> simp [aluTop, placeBit, BitVec.extractLsb'_or]

@[simp] theorem aluTop_group : (aluTop imm op sf).extractLsb' 3 2 = op.extractLsb' 2 2 := by
  simp [aluTop, placeBit, BitVec.extractLsb'_or]

@[simp] theorem aluTop_op : (aluTop imm op sf).extractLsb' 1 4 = op := by
  simp [aluTop, placeBit, BitVec.extractLsb'_or]

@[simp] theorem aluTop_s : (aluTop imm op sf)[0] = sf := by simp [aluTop, placeBit]

variable {mop : BitVec 3} {psr msr : Bool}

@[simp] theorem mulTop_class : (mulTop mop sf).extractLsb' 5 3 = 0#3 := by
  simp [mulTop, placeBit, BitVec.extractLsb'_or]
@[simp] theorem mulTop_op : (mulTop mop sf).extractLsb' 1 3 = mop := by
  simp [mulTop, placeBit, BitVec.extractLsb'_or]
@[simp] theorem mulTop_bit4 : (mulTop mop sf)[4] = false := by simp [mulTop, placeBit]
@[simp] theorem mulTop_s : (mulTop mop sf)[0] = sf := by simp [mulTop, placeBit]

@[simp] theorem psrTop_class : (psrTop imm psr msr).extractLsb' 5 3 = if imm then 1#3 else 0#3 := by
  cases imm <;> simp [psrTop, placeBit, BitVec.extractLsb'_or]

@[simp] theorem psrTop_group : (psrTop imm psr msr).extractLsb' 3 2 = 2#2 := by
  simp [psrTop, placeBit, BitVec.extractLsb'_or]

@[simp] theorem psrTop_psr : (psrTop imm psr msr)[2] = psr := by simp [psrTop, placeBit]
@[simp] theorem psrTop_msr : (psrTop imm psr msr)[1] = msr := by simp [psrTop, placeBit]
@[simp] theorem psrTop_bit0 : (psrTop imm psr msr)[0] = false := by simp [psrTop, placeBit]

end Tops

section Lows

variable {rs rm high low : BitVec 4} {sh : BitVec 2}

@[simp] theorem halfLow_high : (halfLow high sh low).extractLsb' 8 4 = high := by
  simp [halfLow, BitVec.extractLsb'_or]

@[simp] theorem halfLow_sh : (halfLow high sh low).extractLsb' 5 2 = sh := by
  simp [halfLow, BitVec.extractLsb'_or]

@[simp] theorem halfLow_low : (halfLow high sh low).extractLsb' 0 4 = low := by
  simp [halfLow, BitVec.extractLsb'_or]

@[simp] theorem halfLow_bit7 : (halfLow high sh low)[7] = true := by simp [halfLow]
@[simp] theorem halfLow_bit4 : (halfLow high sh low)[4] = true := by simp [halfLow]

/-- Multiplies and swaps hold 00 where the halfword transfers hold their opcode (R102). -/
theorem mulLow_eq_halfLow : mulLow rs rm = halfLow rs 0#2 rm :=
  eq_of_agreeOn [4, 1, 2, 1, 4] rfl (by
    simp [AgreeOn, slice_one, mulLow, BitVec.extractLsb'_or])

end Lows

end Sys2Proof
end

section
/-! PROOFS. The decoder gives an instruction back from its own bytes, format by format (spec/30_encoding.md R100 to
R122). -/

namespace Sys2Proof

open Machine

/-- What the decoder of a code's own instruction set reads from it. -/
def Code.decode : Code → Decoded
  | .arm w => decodeArm w
  | .thumb h => decodeThumb h

theorem halfOfBytes_byteOf_half (h : Half) : halfOfBytes (byteOf h 0) (byteOf h 1) = h := by
  rw [halfOfBytes, place_byteOf_zero]
  exact (place_byteOf_or h 1).trans (by simp)

/-- A code is read whole from its own bytes (R61). -/
theorem decode_bytes (code : Code) : decode code.isThumb code.bytes = code.decode := by
  cases code with
  | arm w => exact congrArg decodeArm (wordOfBytes_byteOf w)
  | thumb h => exact congrArg decodeThumb (halfOfBytes_byteOf_half h)

/-! ## The classes of ARM words -/

section Classes

variable {c : Cond} {w : Word} (hc : w.extractLsb' 28 4 = c.code)
include hc

theorem decodeArm_cond : decodeArm w = decodeArmWith c w := by
  rw [decodeArm, hc, Cond.ofCode_code]

theorem decodeArm_000 (hk : w.extractLsb' 25 3 = 0#3) : decodeArm w = decode000 c w := by
  rw [decodeArm_cond hc]
  delta decodeArmWith
  rw [hk]
  rfl

theorem decodeArm_001 (hk : w.extractLsb' 25 3 = 1#3) : decodeArm w = decode001 c w := by
  rw [decodeArm_cond hc]
  delta decodeArmWith
  rw [hk]
  rfl

theorem decodeArm_010 (hk : w.extractLsb' 25 3 = 2#3) : decodeArm w = decodeSingleImm c w := by
  rw [decodeArm_cond hc]
  delta decodeArmWith
  rw [hk]
  rfl

theorem decodeArm_011 (hk : w.extractLsb' 25 3 = 3#3) :
    decodeArm w =
      if w.getLsbD 4 then .ok (.undefined c (w.extractLsb' 5 20) (w.extractLsb' 0 4)) else decodeSingleReg c w := by
  rw [decodeArm_cond hc]
  delta decodeArmWith
  rw [hk]
  rfl

theorem decodeArm_100 (hk : w.extractLsb' 25 3 = 4#3) : decodeArm w = decodeBlock c w := by
  rw [decodeArm_cond hc]
  delta decodeArmWith
  rw [hk]
  rfl

theorem decodeArm_101 (hk : w.extractLsb' 25 3 = 5#3) :
    decodeArm w = if w.getLsbD 24 then .ok (.bl c (w.extractLsb' 0 24)) else .ok (.b c (w.extractLsb' 0 24)) := by
  rw [decodeArm_cond hc]
  delta decodeArmWith
  rw [hk]
  rfl

theorem decodeArm_110 (hk : w.extractLsb' 25 3 = 6#3) : decodeArm w = decodeCoprocTransfer c w := by
  rw [decodeArm_cond hc]
  delta decodeArmWith
  rw [hk]
  rfl

theorem decodeArm_111 (hk : w.extractLsb' 25 3 = 7#3) : decodeArm w = decode111 c w := by
  rw [decodeArm_cond hc]
  delta decodeArmWith
  rw [hk]
  rfl

end Classes

/-! ## Data processing and multiplies -/

@[simp] theorem Op2Imm.ofWord_armWord (c : Cond) (top : BitVec 8) (a b : BitVec 4) (o : Op2Imm) :
    Op2Imm.ofWord (armWord c top a b o.bits) = o := by
  simp [Op2Imm.ofWord, Op2Imm.bits, BitVec.extractLsb'_or]

@[simp] theorem Op2ShImm.bits_bit4 (o : Op2ShImm) : o.bits[4] = false := by simp [Op2ShImm.bits]

@[simp] theorem Op2ShImm.ofWord_armWord (c : Cond) (top : BitVec 8) (a b : BitVec 4) (o : Op2ShImm) :
    Op2ShImm.ofWord (armWord c top a b o.bits) = o := by
  simp [Op2ShImm.ofWord, Op2ShImm.bits, BitVec.extractLsb'_or]

@[simp] theorem Op2ShReg.bits_bit4 (o : Op2ShReg) : o.bits[4] = true := by simp [Op2ShReg.bits]
@[simp] theorem Op2ShReg.bits_bit7 (o : Op2ShReg) : o.bits[7] = false := by simp [Op2ShReg.bits]

@[simp] theorem Op2ShReg.ofWord_armWord (c : Cond) (top : BitVec 8) (a b : BitVec 4) (o : Op2ShReg) :
    Op2ShReg.ofWord (armWord c top a b o.bits) = o := by
  simp [Op2ShReg.ofWord, Op2ShReg.bits, BitVec.extractLsb'_or]

/-- The I bit of a form (R103). -/
def Machine.Op2Form.isImm : Machine.Op2Form → Bool
  | .imm _ => true
  | .shImm _ | .shReg _ => false

/-- Bits 11-0 of a form (R103). -/
def Machine.Op2Form.bits : Machine.Op2Form → BitVec 12
  | .imm o => o.bits
  | .shImm o => o.bits
  | .shReg o => o.bits

/-- The decoder of a form (R103). -/
def Machine.Op2Form.decode (c : Cond) (op : BitVec 4) (sf : Bool) (rn rd : Reg) : Machine.Op2Form → Decoded
  | .imm o => decodeAluImm c op sf rn rd o
  | .shImm o => decodeAluShImm c op sf rn rd o
  | .shReg o => decodeAluShReg c op sf rn rd o

/-- An opcode 10xx with S=0 is a PSR transfer (R102); every other reaches the decoder of its form. -/
theorem decodeArm_alu {c : Cond} {op : BitVec 4} {sf : Bool} {rn rd : Reg} (f : Op2Form)
    (hs : op.extractLsb' 2 2 = 2#2 → sf = true) :
    decodeArm (armWord c (aluTop f.isImm op sf) rn rd f.bits) = f.decode c op sf rn rd := by
  have hpsr : ¬(op.extractLsb' 2 2 = 2#2 ∧ sf = false) := fun ⟨h, hsf⟩ => by simp [hs h] at hsf
  cases f with
  | imm o =>
    rw [decodeArm_001 armWord_cond (by simp [Op2Form.isImm])]
    simp [decode001, Op2Form.isImm, Op2Form.bits, Op2Form.decode, if_neg hpsr]
  | shImm o =>
    rw [decodeArm_000 armWord_cond (by simp [Op2Form.isImm])]
    simp [decode000, Op2Form.isImm, Op2Form.bits, Op2Form.decode, if_neg hpsr]
  | shReg o =>
    rw [decodeArm_000 armWord_cond (by simp [Op2Form.isImm])]
    simp [decode000, Op2Form.isImm, Op2Form.bits, Op2Form.decode, if_neg hpsr]

variable {c : Cond} {rn rd rs rm : Reg} {sf up : Bool}

/-- Opcodes 010 and 011 are no multiplies (R107). -/
theorem decodeArm_multiply {op : BitVec 3} (hop : op.extractLsb' 1 2 ≠ 1#2) :
    decodeArm (armWord c (mulTop op sf) rd rn (mulLow rs rm)) =
      decodeMultiply c (armWord c (mulTop op sf) rd rn (mulLow rs rm)) := by
  rw [decodeArm_000 armWord_cond (by simp)]
  rcases three_bits op with rfl | rfl | rfl | rfl | rfl | rfl | rfl | rfl
  case inr.inr.inl | inr.inr.inr.inl => exact absurd rfl hop
  all_goals simp [mulLow_eq_halfLow, decode000, mulTop, placeBit, BitVec.extractLsb'_or]

/-! ## PSR transfers and BX -/

@[simp] theorem FieldMask.ofWord_armWord (top : BitVec 8) (b : BitVec 4) (low : BitVec 12) (m : FieldMask) :
    FieldMask.ofWord (armWord c top m.bits b low) = m := by
  simp [FieldMask.ofWord, FieldMask.bits, placeBit]

theorem mrs_decodes {psr : Bool} : (encode (.mrs c psr rd)).decode = .ok (.mrs c psr rd) :=
  (decodeArm_000 armWord_cond (by simp)).trans (by simp [decode000, decodePsrReg])

theorem msrReg_decodes {psr : Bool} {m : FieldMask} :
    (encode (.msrReg c psr m rm)).decode = .ok (.msrReg c psr m rm) :=
  (decodeArm_000 armWord_cond (by simp)).trans (by simp [decode000, decodePsrReg])

theorem msrImm_decodes {psr : Bool} {m : FieldMask} {o : Op2Imm} :
    (encode (.msrImm c psr m o)).decode = .ok (.msrImm c psr m o) :=
  (decodeArm_001 armWord_cond (by simp)).trans (by simp [decode001])

theorem bx_decodes : (encode (.bx c rn)).decode = .ok (.bx c rn) :=
  (decodeArm_000 (c := c) (by simp [BitVec.extractLsb'_or]) (by simp [BitVec.extractLsb'_or])).trans
    (by simp [decode000, decodePsrReg, BitVec.extractLsb'_or])

/-! ## Transfers -/

theorem single_decodes (op : SingleOp) (f : SingleForm) :
    (encode (op.instr c up rn rd f)).decode = .ok (op.instr c up rn rd f) := by
  cases f with
  | immPre | immPost | immT =>
    cases op
    all_goals exact (decodeArm_010 armWord_cond (by simp)).trans (by simp [decodeSingleImm, SingleOp.instr])
  | regPre | regPost | regT =>
    cases op
    all_goals exact (decodeArm_011 armWord_cond (by simp)).trans (by simp [decodeSingleReg, SingleOp.instr])

@[simp] theorem HalfIndex.ofBits_p_w (ix : HalfIndex) : HalfIndex.ofBits ix.p ix.w = some ix := by cases ix <;> rfl

/-- Opcode 00 is a multiply or a swap, and the store has one opcode only (R109, R131). -/
theorem decodeArm_half {load imm : Bool} {ix : HalfIndex} {sh : BitVec 2} {high low : BitVec 4} (hsh : sh ≠ 0#2)
    (hload : load = false → sh = 1#2) :
    decodeArm (armWord c (transferTop 0b000#3 ix.p up imm ix.w load) rn rd (halfLow high sh low)) =
      (if imm then decodeHalfImm else decodeHalfReg) c load sh ix
        (armWord c (transferTop 0b000#3 ix.p up imm ix.w load) rn rd (halfLow high sh low)) := by
  have hstore : ¬(load = false ∧ sh ≠ 1#2) := fun ⟨hl, hne⟩ => hne (hload hl)
  rw [decodeArm_000 armWord_cond (by simp)]
  cases imm <;> simp [decode000, decodeHalf, hsh, if_neg hstore]

/-- An offset in two nibbles (R104). -/
@[simp] theorem nibbles (off : BitVec 8) : place 8 4 (off.extractLsb' 4 4) ||| place 8 0 (off.extractLsb' 0 4) = off :=
  eq_of_agreeOn [4, 4] rfl (by simp [AgreeOn, BitVec.extractLsb'_or])

theorem strh_decodes {ix : HalfIndex} (f : HalfForm) :
    (encode (strhInstr c ix up rn rd f)).decode = .ok (strhInstr c ix up rn rd f) := by
  cases f with
  | reg rm => exact (decodeArm_half (by decide) fun _ => rfl).trans (by simp [decodeHalfReg, strhInstr])
  | imm off => exact (decodeArm_half (by decide) fun _ => rfl).trans (by simp [decodeHalfImm, strhInstr])

theorem halfLoad_decodes {ix : HalfIndex} (op : HalfLoad) (f : HalfForm) :
    (encode (op.instr c ix up rn rd f)).decode = .ok (op.instr c ix up rn rd f) := by
  cases f with
  | reg rm =>
    cases op
    all_goals exact (decodeArm_half (by decide) (by simp)).trans (by simp [decodeHalfReg, HalfLoad.instr])
  | imm off =>
    cases op
    all_goals exact (decodeArm_half (by decide) (by simp)).trans (by simp [decodeHalfImm, HalfLoad.instr])

/-! ## The classes of THUMB halfwords -/

section ThumbClasses

variable {h : Half}

theorem decodeThumb_000 (hk : h.extractLsb' 13 3 = 0#3) : decodeThumb h = decodeThumb1 h := by
  delta decodeThumb
  rw [hk]
  rfl

theorem decodeThumb_001 (hk : h.extractLsb' 13 3 = 1#3) : decodeThumb h = decodeThumb3 h := by
  delta decodeThumb
  rw [hk]
  rfl

theorem decodeThumb_010 (hk : h.extractLsb' 13 3 = 2#3) : decodeThumb h = decodeThumb010 h := by
  delta decodeThumb
  rw [hk]
  rfl

theorem decodeThumb_011 (hk : h.extractLsb' 13 3 = 3#3) : decodeThumb h = decodeThumb9 h := by
  delta decodeThumb
  rw [hk]
  rfl

theorem decodeThumb_100 (hk : h.extractLsb' 13 3 = 4#3) : decodeThumb h = decodeThumb100 h := by
  delta decodeThumb
  rw [hk]
  rfl

theorem decodeThumb_101 (hk : h.extractLsb' 13 3 = 5#3) : decodeThumb h = decodeThumb101 h := by
  delta decodeThumb
  rw [hk]
  rfl

theorem decodeThumb_110 (hk : h.extractLsb' 13 3 = 6#3) : decodeThumb h = decodeThumb110 h := by
  delta decodeThumb
  rw [hk]
  rfl

theorem decodeThumb_111 (hk : h.extractLsb' 13 3 = 7#3) : decodeThumb h = decodeThumb111 h := by
  delta decodeThumb
  rw [hk]
  rfl

end ThumbClasses

/-! ## All instructions -/

theorem thumbAlu_decodes (op : BitVec 4) (rs rd : LoReg) :
    (thumbAlu op rs rd).decode =
      decodeThumb4 (place 16 10 0b010000#6 ||| place 16 6 op ||| place 16 3 rs ||| place 16 0 rd) :=
  (decodeThumb_010 (by simp [BitVec.extractLsb'_or])).trans (by simp [decodeThumb010])

theorem thumbHi_decodes (op : BitVec 2) (msbd : Bool) (rs : Reg) (rd : LoReg) :
    (thumbHi op msbd rs rd).decode =
      decodeThumb5
        (place 16 10 0b010001#6 ||| place 16 8 op ||| placeBit 16 7 msbd ||| place 16 3 rs ||| place 16 0 rd) :=
  (decodeThumb_010 (by simp [placeBit, BitVec.extractLsb'_or])).trans (by simp [decodeThumb010, placeBit])

/-- PUSH and POP hold 10 in bits 10-9, where ADD SP has 00 (R121). -/
theorem stack_bits : (place 16 9 0b10#2).extractLsb' 8 4 = 4#4 := rfl

theorem thumbCond_decodes (cond : BitVec 4) (off : BitVec 8) :
    (thumbCond cond off).decode = decodeThumb1101 (place 16 12 0b1101#4 ||| place 16 8 cond ||| place 16 0 off) :=
  (decodeThumb_110 (by simp [BitVec.extractLsb'_or])).trans (by simp [decodeThumb110])

/-- Each ARM instruction by its class and the decoder of its format; only the swaps need an operand restriction, for R15
as their base is no code of a swap (R108). -/
theorem encode_decodes_arm {i : Instr} {cond : Cond} (hi : armCond i = some cond) (hw : i.wellFormed = true) :
    (encode i).decode = .ok i := by
  cases i with
  | b c | bl c =>
    exact (decodeArm_101 (c := c) (by simp [BitVec.extractLsb'_or]) (by simp [BitVec.extractLsb'_or])).trans
      (by simp [BitVec.extractLsb'_or])
  | swi c =>
    exact (decodeArm_111 (c := c) (by simp [BitVec.extractLsb'_or]) (by simp [BitVec.extractLsb'_or])).trans
      (by simp [decode111, BitVec.extractLsb'_or])
  | undefined c =>
    exact (decodeArm_011 (c := c) (by simp [BitVec.extractLsb'_or]) (by simp [BitVec.extractLsb'_or])).trans
      (by simp [BitVec.extractLsb'_or])
  | bx => exact bx_decodes
  | andImm _ _ _ _ o | eorImm _ _ _ _ o | subImm _ _ _ _ o | rsbImm _ _ _ _ o | addImm _ _ _ _ o | adcImm _ _ _ _ o
  | sbcImm _ _ _ _ o | rscImm _ _ _ _ o | tstImm _ _ o | teqImm _ _ o | cmpImm _ _ o | cmnImm _ _ o
  | orrImm _ _ _ _ o | movImm _ _ _ o | bicImm _ _ _ _ o | mvnImm _ _ _ o => exact decodeArm_alu (.imm o) (by simp)
  | andShImm _ _ _ _ o | eorShImm _ _ _ _ o | subShImm _ _ _ _ o | rsbShImm _ _ _ _ o | addShImm _ _ _ _ o
  | adcShImm _ _ _ _ o | sbcShImm _ _ _ _ o | rscShImm _ _ _ _ o | tstShImm _ _ o | teqShImm _ _ o | cmpShImm _ _ o
  | cmnShImm _ _ o | orrShImm _ _ _ _ o | movShImm _ _ _ o | bicShImm _ _ _ _ o | mvnShImm _ _ _ o =>
    exact decodeArm_alu (.shImm o) (by simp)
  | andShReg _ _ _ _ o | eorShReg _ _ _ _ o | subShReg _ _ _ _ o | rsbShReg _ _ _ _ o | addShReg _ _ _ _ o
  | adcShReg _ _ _ _ o | sbcShReg _ _ _ _ o | rscShReg _ _ _ _ o | tstShReg _ _ o | teqShReg _ _ o | cmpShReg _ _ o
  | cmnShReg _ _ o | orrShReg _ _ _ _ o | movShReg _ _ _ o | bicShReg _ _ _ _ o | mvnShReg _ _ _ o =>
    exact decodeArm_alu (.shReg o) (by simp)
  | mul | mla | umull | umlal | smull | smlal =>
    exact (decodeArm_multiply (by decide)).trans (by simp [decodeMultiply, mulLow_eq_halfLow])
  | mrs => exact mrs_decodes
  | msrReg => exact msrReg_decodes
  | msrImm => exact msrImm_decodes
  | ldrImmPre _ _ wb _ _ off => exact single_decodes .ldr (.immPre wb off)
  | ldrImmPost _ _ _ _ off => exact single_decodes .ldr (.immPost off)
  | ldrRegPre _ _ wb _ _ o => exact single_decodes .ldr (.regPre wb o)
  | ldrRegPost _ _ _ _ o => exact single_decodes .ldr (.regPost o)
  | ldrtImm _ _ _ _ off => exact single_decodes .ldr (.immT off)
  | ldrtReg _ _ _ _ o => exact single_decodes .ldr (.regT o)
  | ldrbImmPre _ _ wb _ _ off => exact single_decodes .ldrb (.immPre wb off)
  | ldrbImmPost _ _ _ _ off => exact single_decodes .ldrb (.immPost off)
  | ldrbRegPre _ _ wb _ _ o => exact single_decodes .ldrb (.regPre wb o)
  | ldrbRegPost _ _ _ _ o => exact single_decodes .ldrb (.regPost o)
  | ldrbtImm _ _ _ _ off => exact single_decodes .ldrb (.immT off)
  | ldrbtReg _ _ _ _ o => exact single_decodes .ldrb (.regT o)
  | strImmPre _ _ wb _ _ off => exact single_decodes .str (.immPre wb off)
  | strImmPost _ _ _ _ off => exact single_decodes .str (.immPost off)
  | strRegPre _ _ wb _ _ o => exact single_decodes .str (.regPre wb o)
  | strRegPost _ _ _ _ o => exact single_decodes .str (.regPost o)
  | strtImm _ _ _ _ off => exact single_decodes .str (.immT off)
  | strtReg _ _ _ _ o => exact single_decodes .str (.regT o)
  | strbImmPre _ _ wb _ _ off => exact single_decodes .strb (.immPre wb off)
  | strbImmPost _ _ _ _ off => exact single_decodes .strb (.immPost off)
  | strbRegPre _ _ wb _ _ o => exact single_decodes .strb (.regPre wb o)
  | strbRegPost _ _ _ _ o => exact single_decodes .strb (.regPost o)
  | strbtImm _ _ _ _ off => exact single_decodes .strb (.immT off)
  | strbtReg _ _ _ _ o => exact single_decodes .strb (.regT o)
  | strhReg _ _ _ _ _ rm => exact strh_decodes (.reg rm)
  | strhImm _ _ _ _ _ off => exact strh_decodes (.imm off)
  | ldrhReg _ _ _ _ _ rm => exact halfLoad_decodes .ldrh (.reg rm)
  | ldrhImm _ _ _ _ _ off => exact halfLoad_decodes .ldrh (.imm off)
  | ldrsbReg _ _ _ _ _ rm => exact halfLoad_decodes .ldrsb (.reg rm)
  | ldrsbImm _ _ _ _ _ off => exact halfLoad_decodes .ldrsb (.imm off)
  | ldrshReg _ _ _ _ _ rm => exact halfLoad_decodes .ldrsh (.reg rm)
  | ldrshImm _ _ _ _ _ off => exact halfLoad_decodes .ldrsh (.imm off)
  | stm c | ldm c | stmS c | ldmPcS c | ldmUserS c =>
    exact (decodeArm_100 (c := c) (by simp [BitVec.extractLsb'_or]) (by simp [BitVec.extractLsb'_or])).trans
      (by simp [decodeBlock, BitVec.extractLsb'_or])
  | swp | swpb =>
    simp only [Instr.wellFormed, Bool.and_eq_true, Reg.notPc_iff] at hw
    obtain ⟨⟨hrn, -⟩, -⟩ := hw
    exact (decodeArm_000 armWord_cond (by simp)).trans (by simp [decode000, mulLow_eq_halfLow, decodeSwap, hrn])
  | mrc | mcr =>
    exact (decodeArm_111 armWord_cond (by simp [placeBit, BitVec.extractLsb'_or])).trans
      (by simp [decode111, CoprocRegOp.ofWord, placeBit, BitVec.extractLsb'_or])
  | cdp =>
    exact (decodeArm_111 armWord_cond (by simp [BitVec.extractLsb'_or])).trans
      (by simp [decode111, BitVec.extractLsb'_or])
  | ldc | stc =>
    exact (decodeArm_110 armWord_cond (by simp)).trans (by simp [decodeCoprocTransfer, BitVec.extractLsb'_or])
  | _ => cases hi

/-- Formats 1 to 4 and CMP of format 5, by class and format: the THUMB instructions that set flags. -/
theorem encode_decodes_thumb_flags {i : Instr} (hi : armCond i = none ∧ keepsFlags i = false) :
    (encode i).decode = .ok i := by
  cases i with
  | tLslImm | tLsrImm | tAsrImm | tAddReg | tSubReg | tAddImm3 | tSubImm3 =>
    exact (decodeThumb_000 (by simp [BitVec.extractLsb'_or])).trans (by simp [decodeThumb1, BitVec.extractLsb'_or])
  | tMovImm8 | tCmpImm8 | tAddImm8 | tSubImm8 =>
    exact (decodeThumb_001 (by simp [BitVec.extractLsb'_or])).trans (by simp [decodeThumb3, BitVec.extractLsb'_or])
  | tAnd | tEor | tLslReg | tLsrReg | tAsrReg | tAdc | tSbc | tRor | tTst | tNeg | tCmpReg | tCmn | tOrr | tMul
  | tBic | tMvn => exact (thumbAlu_decodes ..).trans (by simp [decodeThumb4, BitVec.extractLsb'_or])
  | tCmpHiDst | tCmpHiSrc =>
    exact (thumbHi_decodes ..).trans (by simp [decodeThumb5, placeBit, hiReg, BitVec.extractLsb'_or])
  | _ => obtain ⟨⟨⟩, ⟨⟩⟩ := hi

/-- The rest of format 5 and formats 6 to 19, by class and format: the THUMB instructions that keep the flags. -/
theorem encode_decodes_thumb_noFlags {i : Instr} (hi : armCond i = none ∧ keepsFlags i = true) :
    (encode i).decode = .ok i := by
  cases i with
  | tAddHiDst | tAddHiSrc | tMovHiDst | tMovHiSrc | tBx =>
    exact (thumbHi_decodes ..).trans (by simp [decodeThumb5, placeBit, hiReg, BitVec.extractLsb'_or])
  | tLdrPc =>
    exact (decodeThumb_010 (by simp [BitVec.extractLsb'_or])).trans (by simp [decodeThumb010, BitVec.extractLsb'_or])
  | tStrReg | tStrbReg | tLdrReg | tLdrbReg | tStrhReg | tLdsbReg | tLdrhReg | tLdshReg =>
    exact (decodeThumb_010 (by simp [BitVec.extractLsb'_or])).trans
      (by simp [decodeThumb010, decodeThumb78, BitVec.extractLsb'_or])
  | tStrImm | tLdrImm | tStrbImm | tLdrbImm =>
    exact (decodeThumb_011 (by simp [BitVec.extractLsb'_or])).trans (by simp [decodeThumb9, BitVec.extractLsb'_or])
  | tStrhImm | tLdrhImm | tStrSp | tLdrSp =>
    exact (decodeThumb_100 (by simp [BitVec.extractLsb'_or])).trans (by simp [decodeThumb100, BitVec.extractLsb'_or])
  | tAddPc | tAddSp =>
    exact (decodeThumb_101 (by simp [BitVec.extractLsb'_or])).trans (by simp [decodeThumb101, BitVec.extractLsb'_or])
  | tSpAdd | tSpSub | tPush | tPop =>
    exact (decodeThumb_101 (by simp [placeBit, BitVec.extractLsb'_or])).trans
      (by simp [decodeThumb101, decodeThumb1011, stack_bits, placeBit, BitVec.extractLsb'_or])
  | tStmia | tLdmia =>
    exact (decodeThumb_110 (by simp [BitVec.extractLsb'_or])).trans (by simp [decodeThumb110, BitVec.extractLsb'_or])
  | tBeq | tBne | tBcs | tBcc | tBmi | tBpl | tBvs | tBvc | tBhi | tBls | tBge | tBlt | tBgt | tBle | tSwi =>
    exact (thumbCond_decodes ..).trans (by simp [decodeThumb1101, BitVec.extractLsb'_or])
  | tB | tBlFirst | tBlSecond =>
    exact (decodeThumb_111 (by simp [BitVec.extractLsb'_or])).trans (by simp [decodeThumb111, BitVec.extractLsb'_or])
  | _ => obtain ⟨⟨⟩, ⟨⟩⟩ := hi

/-- Settles O1: the bytes of a code are read whole, and each code decodes to its instruction. -/
theorem decodeOfEncode : Obligations.DecodeOfEncode := by
  intro i hw
  rw [decode_bytes]
  cases hi : armCond i with
  | none =>
    cases hk : keepsFlags i with
    | false => exact encode_decodes_thumb_flags ⟨hi, hk⟩
    | true => exact encode_decodes_thumb_noFlags ⟨hi, hk⟩
  | some cond => exact encode_decodes_arm hi hw

end Sys2Proof
end

section
/-! PROOFS. What a word or halfword decodes to has that word or halfword as its code, decoder by decoder
(spec/30_encoding.md R101, R102, R120, R121). -/

namespace Sys2Proof

open Machine

/-- If the decoder answers an instruction, that instruction's code is `code`. -/
def Decoded.Codes (d : Decoded) (code : Code) : Prop := ∀ i : Instr, d = .ok i → encode i = code

section Codes

variable {code : Code} {r : Reject} {i : Instr}

theorem codes_error : Decoded.Codes (.error r) code := by
  intro i h
  cases h

theorem codes_ok (h : encode i = code) : Decoded.Codes (.ok i) code := by
  intro j hj
  cases hj
  exact h

theorem codes_arm {v w : Word} (hi : encode i = .arm v) (h : v = w) : Decoded.Codes (.ok i) (.arm w) :=
  codes_ok (hi.trans (congrArg Code.arm h))

theorem codes_thumb {v h : Half} (hi : encode i = .thumb v) (hv : v = h) : Decoded.Codes (.ok i) (.thumb h) :=
  codes_ok (hi.trans (congrArg Code.thumb hv))

/-- The instruction's code and the word agree on fields of these widths. -/
theorem codes_armFields {v w : Word} (ks : List Nat) (hks : ks.sum = 32) (hi : encode i = .arm v)
    (h : AgreeOn v w 0 ks) : Decoded.Codes (.ok i) (.arm w) :=
  codes_arm hi (eq_of_agreeOn ks hks h)

/-- The instruction's code and the halfword agree on fields of these widths. -/
theorem codes_thumbFields {v h : Half} (ks : List Nat) (hks : ks.sum = 16) (hi : encode i = .thumb v)
    (hv : AgreeOn v h 0 ks) : Decoded.Codes (.ok i) (.thumb h) :=
  codes_thumb hi (eq_of_agreeOn ks hks hv)

end Codes

/-! ## Bits 11-0 and the field mask put together again -/

section Reassembled

variable {w : Word}

@[simp] theorem Op2Imm.bits_ofWord : (Op2Imm.ofWord w).bits = w.extractLsb' 0 12 :=
  eq_of_agreeOn [8, 4] rfl (by simp [AgreeOn, Op2Imm.bits, Op2Imm.ofWord, BitVec.extractLsb'_or])

theorem Op2ShImm.bits_ofWord (h4 : w.getLsbD 4 = false) : (Op2ShImm.ofWord w).bits = w.extractLsb' 0 12 :=
  eq_of_agreeOn [4, 1, 2, 5] rfl
    (by simp_all [AgreeOn, slice_one, Op2ShImm.bits, Op2ShImm.ofWord, BitVec.extractLsb'_or])

theorem Op2ShReg.bits_ofWord (h4 : w.getLsbD 4 = true) (h7 : w.getLsbD 7 = false) :
    (Op2ShReg.ofWord w).bits = w.extractLsb' 0 12 :=
  eq_of_agreeOn [4, 1, 2, 1, 4] rfl
    (by simp_all [AgreeOn, slice_one, Op2ShReg.bits, Op2ShReg.ofWord, BitVec.extractLsb'_or])

@[simp] theorem FieldMask.bits_ofWord : (FieldMask.ofWord w).bits = w.extractLsb' 16 4 :=
  eq_of_agreeOn [1, 1, 1, 1] rfl (by simp [AgreeOn, slice_one, FieldMask.bits, FieldMask.ofWord, placeBit])

end Reassembled

/-! ## Data processing -/

/-- The code of an opcode (R103). -/
def Machine.AluOp.code : Machine.AluOp → BitVec 4
  | .and => 0#4 | .eor => 1#4 | .sub => 2#4 | .rsb => 3#4 | .add => 4#4 | .adc => 5#4 | .sbc => 6#4 | .rsc => 7#4
  | .tst => 8#4 | .teq => 9#4 | .cmp => 10#4 | .cmn => 11#4 | .orr => 12#4 | .mov => 13#4 | .bic => 14#4 | .mvn => 15#4

theorem Machine.AluOp.code_surjective (x : BitVec 4) : ∃ op : AluOp, op.code = x := by
  rcases four_bits x with rfl | rfl | rfl | rfl | rfl | rfl | rfl | rfl | rfl | rfl | rfl | rfl | rfl | rfl | rfl | rfl
  exacts [⟨.and, rfl⟩, ⟨.eor, rfl⟩, ⟨.sub, rfl⟩, ⟨.rsb, rfl⟩, ⟨.add, rfl⟩, ⟨.adc, rfl⟩, ⟨.sbc, rfl⟩, ⟨.rsc, rfl⟩,
    ⟨.tst, rfl⟩, ⟨.teq, rfl⟩, ⟨.cmp, rfl⟩, ⟨.cmn, rfl⟩, ⟨.orr, rfl⟩, ⟨.mov, rfl⟩, ⟨.bic, rfl⟩, ⟨.mvn, rfl⟩]

/-- MOV and MVN have no Rn (R103). -/
def Machine.AluOp.moves : Machine.AluOp → Bool
  | .mov | .mvn => true
  | _ => false

section Alu

variable {c : Cond} {sf : Bool} {rn rd : Reg}

/-- What the decoder of a form answers: the compares and the moves check the field they do not have (R103, R186). -/
theorem Machine.Op2Form.decode_code (op : AluOp) (f : Op2Form) :
    f.decode c op.code sf rn rd =
      if op.compares then decodeCompare rd (op.instr c sf rn rd f)
      else if op.moves then decodeMove rn (op.instr c sf rn rd f) else .ok (op.instr c sf rn rd f) := by
  cases f
  all_goals cases op <;> rfl

/-- The code of a data-processing instruction with the fields it does not have filled in (R103). -/
theorem encode_aluInstr (op : AluOp) (f : Op2Form) (hs : op.compares = true → sf = true ∧ rd = 0#4)
    (hm : op.moves = true → rn = 0#4) :
    encode (op.instr c sf rn rd f) = .arm (armWord c (aluTop f.isImm op.code sf) rn rd f.bits) := by
  cases op with
  | tst | teq | cmp | cmn =>
    obtain ⟨rfl, rfl⟩ := hs rfl
    cases f <;> rfl
  | mov | mvn =>
    obtain rfl := hm rfl
    cases f <;> rfl
  | _ => cases f <;> rfl

theorem Machine.AluOp.compares_iff (op : AluOp) : op.compares = true ↔ op.code.extractLsb' 2 2 = 2#2 := by
  cases op <;> decide

/-- A code 10xx with S=0 is not data processing, so the compares come with S=1 (R102). -/
theorem Machine.Op2Form.decode_codes (f : Op2Form) (op : BitVec 4) (hs : op.extractLsb' 2 2 = 2#2 → sf = true) :
    (f.decode c op sf rn rd).Codes (.arm (armWord c (aluTop f.isImm op sf) rn rd f.bits)) := by
  obtain ⟨op, rfl⟩ := AluOp.code_surjective op
  rw [← AluOp.compares_iff] at hs
  rw [Op2Form.decode_code]
  split
  next hcmp =>
    have hmov : op.moves = true → rn = 0#4 := by cases op <;> simp_all [AluOp.compares, AluOp.moves]
    unfold decodeCompare
    split
    next hrd => exact codes_ok (encode_aluInstr op f (fun h => ⟨hs h, hrd⟩) hmov)
    next => split <;> exact codes_error
  next hcmp =>
    split
    next =>
      unfold decodeMove
      split
      next hrn => exact codes_ok (encode_aluInstr op f (fun h => absurd h hcmp) fun _ => hrn)
      next => exact codes_error
    next hmov => exact codes_ok (encode_aluInstr op f (fun h => absurd h hcmp) fun h => absurd h hmov)

end Alu

theorem HalfIndex.p_w_of_ofBits {p b : Bool} {ix : HalfIndex} (h : HalfIndex.ofBits p b = some ix) :
    ix.p = p ∧ ix.w = b := by
  cases p <;> cases b <;> cases h <;> exact ⟨rfl, rfl⟩

/-! ## ARM words -/

/-- The opcodes of the halfword transfers: one store, three loads (R109). -/
def HalfOpcode (load : Bool) (sh : BitVec 2) : Prop :=
  load = false ∧ sh = 1#2 ∨ load = true ∧ (sh = 1#2 ∨ sh = 2#2 ∨ sh = 3#2)

theorem halfOpcode_of {load : Bool} {sh : BitVec 2} (hsh : sh ≠ 0#2) (hstore : ¬(load = false ∧ sh ≠ 1#2)) :
    HalfOpcode load sh := by
  cases load with
  | false => exact .inl ⟨rfl, by_contra fun h => hstore ⟨rfl, h⟩⟩
  | true => exact .inr ⟨rfl, (two_bits sh).resolve_left hsh⟩

section Arm

variable {c : Cond} {w : Word} (hc : w.extractLsb' 28 4 = c.code)
include hc

/-- A word that is no PSR transfer, with the form of its second operand (R102, R103). -/
theorem alu_codes (f : Op2Form) (hf : f.bits = w.extractLsb' 0 12)
    (hk : w.extractLsb' 25 3 = if f.isImm then 1#3 else 0#3)
    (hpsr : ¬(w.extractLsb' 23 2 = 2#2 ∧ w.getLsbD 20 = false)) :
    (f.decode c (w.extractLsb' 21 4) (w.getLsbD 20) (w.extractLsb' 16 4) (w.extractLsb' 12 4)).Codes (.arm w) := by
  have hs (hcmp : (w.extractLsb' 21 4).extractLsb' 2 2 = 2#2) : w.getLsbD 20 = true := by
    rw [slice_slice _ (by decide)] at hcmp
    exact Bool.eq_true_of_not_eq_false fun h20 => hpsr ⟨hcmp, h20⟩
  have hw : armWord c (aluTop f.isImm (w.extractLsb' 21 4) (w.getLsbD 20)) (w.extractLsb' 16 4) (w.extractLsb' 12 4)
      f.bits = w :=
    eq_of_agreeOn [12, 4, 4, 1, 4, 3, 4] rfl (by simp_all [AgreeOn, slice_one])
  have hcodes := f.decode_codes (c := c) (rn := w.extractLsb' 16 4) (rd := w.extractLsb' 12 4) _ hs
  rwa [hw] at hcodes

theorem decode001_codes (hk : w.extractLsb' 25 3 = 1#3) : (decode001 c w).Codes (.arm w) := by
  unfold decode001
  split
  next hpsr =>
    split
    next hmsr =>
      split
      next hones =>
        exact codes_armFields [12, 4, 4, 1, 1, 1, 2, 3, 4] rfl rfl (by simp_all [AgreeOn, slice_one])
      next => exact codes_error
    next => exact codes_error
  next hpsr => exact alu_codes hc (.imm (Op2Imm.ofWord w)) Op2Imm.bits_ofWord hk hpsr

/-- A word of the multiplies is put together from its fields (R107). -/
theorem mulWord_eq (hk : w.extractLsb' 25 3 = 0#3) (h24 : w.getLsbD 24 = false) (h7 : w.getLsbD 7 = true)
    (h4 : w.getLsbD 4 = true) (hsh : w.extractLsb' 5 2 = 0#2) :
    armWord c (mulTop (w.extractLsb' 21 3) (w.getLsbD 20)) (w.extractLsb' 16 4) (w.extractLsb' 12 4)
      (mulLow (w.extractLsb' 8 4) (w.extractLsb' 0 4)) = w :=
  eq_of_agreeOn [4, 1, 2, 1, 4, 4, 4, 1, 3, 1, 3, 4] rfl
    (by simp_all [AgreeOn, slice_one, mulLow_eq_halfLow])

theorem decodeMultiply_codes (hk : w.extractLsb' 25 3 = 0#3) (h24 : w.getLsbD 24 = false) (h7 : w.getLsbD 7 = true)
    (h4 : w.getLsbD 4 = true) (hsh : w.extractLsb' 5 2 = 0#2) : (decodeMultiply c w).Codes (.arm w) := by
  have hw := mulWord_eq hc hk h24 h7 h4 hsh
  rcases three_bits (w.extractLsb' 21 3) with h | h | h | h | h | h | h | h
  all_goals
    rw [h] at hw
    simp only [decodeMultiply, h, BitVec.reduceToNat]
  case inr.inr.inl | inr.inr.inr.inl => exact codes_error
  case inl =>
    split
    next hrn => exact codes_arm rfl (by rwa [hrn] at hw)
    next => exact codes_error
  all_goals exact codes_arm rfl hw

theorem decodeSwap_codes (hk : w.extractLsb' 25 3 = 0#3) (hg : w.extractLsb' 23 2 = 2#2) (h7 : w.getLsbD 7 = true)
    (h4 : w.getLsbD 4 = true) (hsh : w.extractLsb' 5 2 = 0#2) : (decodeSwap c w).Codes (.arm w) := by
  simp only [decodeSwap]
  split
  next hmust =>
    obtain ⟨h20, h8, -⟩ := hmust
    split
    all_goals
      exact codes_armFields [4, 1, 2, 1, 4, 4, 4, 2, 1, 2, 3, 4] rfl rfl
        (by simp_all [AgreeOn, slice_one, mulLow_eq_halfLow])
  next => exact codes_error

/-- A word of the halfword transfers is put together from its fields (R109). -/
theorem halfWord_eq {imm : Bool} {ix : HalfIndex} (hk : w.extractLsb' 25 3 = 0#3) (h22 : w.getLsbD 22 = imm)
    (hix : ix.p = w.getLsbD 24 ∧ ix.w = w.getLsbD 21) (h7 : w.getLsbD 7 = true) (h4 : w.getLsbD 4 = true) :
    armWord c (transferTop 0b000#3 ix.p (w.getLsbD 23) imm ix.w (w.getLsbD 20)) (w.extractLsb' 16 4)
      (w.extractLsb' 12 4) (halfLow (w.extractLsb' 8 4) (w.extractLsb' 5 2) (w.extractLsb' 0 4)) = w :=
  eq_of_agreeOn [4, 1, 2, 1, 4, 4, 4, 1, 1, 1, 1, 1, 3, 4] rfl (by simp_all [AgreeOn, slice_one])

theorem decodeHalfReg_codes {ix : HalfIndex} (hk : w.extractLsb' 25 3 = 0#3) (h22 : w.getLsbD 22 = false)
    (hix : ix.p = w.getLsbD 24 ∧ ix.w = w.getLsbD 21) (h7 : w.getLsbD 7 = true) (h4 : w.getLsbD 4 = true)
    (hop : HalfOpcode (w.getLsbD 20) (w.extractLsb' 5 2)) :
    (decodeHalfReg c (w.getLsbD 20) (w.extractLsb' 5 2) ix w).Codes (.arm w) := by
  have hw := halfWord_eq hc hk h22 hix h7 h4
  simp only [decodeHalfReg]
  split
  next h8 =>
    rw [h8] at hw
    rcases hop with ⟨hload, hsh⟩ | ⟨hload, hsh | hsh | hsh⟩
    all_goals
      rw [hload, hsh] at hw ⊢
      exact codes_arm rfl hw
  next => exact codes_error

theorem decodeHalfImm_codes {ix : HalfIndex} (hk : w.extractLsb' 25 3 = 0#3) (h22 : w.getLsbD 22 = true)
    (hix : ix.p = w.getLsbD 24 ∧ ix.w = w.getLsbD 21) (h7 : w.getLsbD 7 = true) (h4 : w.getLsbD 4 = true)
    (hop : HalfOpcode (w.getLsbD 20) (w.extractLsb' 5 2)) :
    (decodeHalfImm c (w.getLsbD 20) (w.extractLsb' 5 2) ix w).Codes (.arm w) := by
  have hw : halfImmWord c (w.getLsbD 20) (w.extractLsb' 5 2) ix (w.getLsbD 23) (w.extractLsb' 16 4)
      (w.extractLsb' 12 4) (place 8 4 (w.extractLsb' 8 4) ||| place 8 0 (w.extractLsb' 0 4)) = .arm w := by
    simpa [halfImmWord, BitVec.extractLsb'_or] using halfWord_eq hc hk h22 hix h7 h4
  simp only [decodeHalfImm]
  rcases hop with ⟨hload, hsh⟩ | ⟨hload, hsh | hsh | hsh⟩
  all_goals
    rw [hload, hsh] at hw ⊢
    exact codes_ok hw

/-- Opcode 00 stands for multiplies and swaps (R102, R109). -/
theorem decodeHalf_codes (hk : w.extractLsb' 25 3 = 0#3) (h7 : w.getLsbD 7 = true) (h4 : w.getLsbD 4 = true)
    (hsh : w.extractLsb' 5 2 ≠ 0#2) : (decodeHalf c w).Codes (.arm w) := by
  simp only [decodeHalf]
  split
  next => exact codes_error
  next hstore =>
    have hop : HalfOpcode (w.getLsbD 20) (w.extractLsb' 5 2) := halfOpcode_of hsh hstore
    split
    next => exact codes_error
    next ix hbits =>
      have hix := HalfIndex.p_w_of_ofBits hbits
      split
      next h22 => exact decodeHalfImm_codes hc hk h22 hix h7 h4 hop
      next h22 => exact decodeHalfReg_codes hc hk (Bool.eq_false_of_not_eq_true h22) hix h7 h4 hop

theorem decodePsrReg_codes (hk : w.extractLsb' 25 3 = 0#3) (hg : w.extractLsb' 23 2 = 2#2) (h20 : w.getLsbD 20 = false) :
    (decodePsrReg c w).Codes (.arm w) := by
  simp only [decodePsrReg]
  split
  next hmrs =>
    exact codes_armFields [12, 4, 4, 1, 1, 1, 2, 3, 4] rfl rfl (by simp_all [AgreeOn, slice_one])
  split
  next hmsr =>
    exact codes_armFields [4, 8, 4, 4, 1, 1, 1, 2, 3, 4] rfl rfl (by simp_all [AgreeOn, slice_one])
  split
  next hbx =>
    exact codes_armFields [4, 24, 4] rfl rfl (by simp_all [AgreeOn, BitVec.extractLsb'_or])
  repeat' split
  all_goals exact codes_error

theorem decodeSingleImm_codes (hk : w.extractLsb' 25 3 = 2#3) : (decodeSingleImm c w).Codes (.arm w) := by
  simp only [decodeSingleImm]
  repeat' split
  all_goals
    exact codes_armFields [12, 4, 4, 1, 1, 1, 1, 1, 3, 4] rfl rfl (by simp_all [AgreeOn, slice_one])

theorem decodeSingleReg_codes (hk : w.extractLsb' 25 3 = 3#3) (h4 : w.getLsbD 4 = false) :
    (decodeSingleReg c w).Codes (.arm w) := by
  have ho : (Op2ShImm.ofWord w).bits = w.extractLsb' 0 12 := Op2ShImm.bits_ofWord h4
  simp only [decodeSingleReg]
  repeat' split
  all_goals
    exact codes_armFields [12, 4, 4, 1, 1, 1, 1, 1, 3, 4] rfl rfl (by simp_all [AgreeOn, slice_one])

theorem decodeBlock_codes (hk : w.extractLsb' 25 3 = 4#3) : (decodeBlock c w).Codes (.arm w) := by
  simp only [decodeBlock]
  repeat' split
  all_goals
    exact codes_armFields [15, 1, 4, 1, 1, 1, 1, 1, 3, 4] rfl rfl
      (by simp_all [AgreeOn, slice_one, BitVec.extractLsb'_or])

theorem decodeCoprocTransfer_codes (hk : w.extractLsb' 25 3 = 6#3) : (decodeCoprocTransfer c w).Codes (.arm w) := by
  simp only [decodeCoprocTransfer]
  split
  all_goals
    exact codes_armFields [8, 4, 4, 4, 1, 1, 1, 1, 1, 3, 4] rfl rfl
      (by simp_all [AgreeOn, slice_one, BitVec.extractLsb'_or])

theorem decode111_codes (hk : w.extractLsb' 25 3 = 7#3) : (decode111 c w).Codes (.arm w) := by
  simp only [decode111]
  split
  next =>
    exact codes_armFields [24, 1, 3, 4] rfl rfl (by simp_all [AgreeOn, slice_one, BitVec.extractLsb'_or])
  repeat' split
  all_goals
    exact codes_armFields [4, 1, 3, 4, 4, 4, 1, 3, 1, 3, 4] rfl rfl
      (by simp_all [AgreeOn, slice_one, CoprocRegOp.ofWord, placeBit, BitVec.extractLsb'_or])

theorem decode000_codes (hk : w.extractLsb' 25 3 = 0#3) : (decode000 c w).Codes (.arm w) := by
  unfold decode000
  split
  next h74 =>
    obtain ⟨h7, h4⟩ := h74
    split
    next hsh =>
      rcases two_bits (w.extractLsb' 23 2) with hg | hg | hg | hg
      all_goals
        have h24 : w.getLsbD 24 = (w.extractLsb' 23 2).getLsbD 1 := by simp
        rw [hg] at h24
        simp only [hg, BitVec.reduceToNat]
      · split
        next => exact codes_error
        next => exact decodeMultiply_codes hc hk h24 h7 h4 hsh
      · exact decodeMultiply_codes hc hk h24 h7 h4 hsh
      · exact decodeSwap_codes hc hk hg h7 h4 hsh
      · exact codes_error
    next hsh => exact decodeHalf_codes hc hk h7 h4 hsh
  next h74 =>
    split
    next hpsr =>
      obtain ⟨hg, h20⟩ := hpsr
      exact decodePsrReg_codes hc hk hg h20
    next hpsr =>
      split
      next h4 =>
        have h7 : w.getLsbD 7 = false := Bool.eq_false_of_not_eq_true fun h => h74 ⟨h, h4⟩
        exact alu_codes hc (.shReg (Op2ShReg.ofWord w)) (Op2ShReg.bits_ofWord h4 h7) hk hpsr
      next h4 =>
        exact alu_codes hc (.shImm (Op2ShImm.ofWord w)) (Op2ShImm.bits_ofWord (Bool.eq_false_of_not_eq_true h4)) hk hpsr

end Arm

/-- The ARM decoder, by the classes of bits 27-25 (R102). -/
theorem decodeArm_codes (w : Word) : (decodeArm w).Codes (.arm w) := by
  cases hcond : Cond.ofCode (w.extractLsb' 28 4) with
  | none =>
    rw [decodeArm, hcond]
    exact codes_error
  | some c =>
    have hc : w.extractLsb' 28 4 = c.code := Cond.code_of_ofCode hcond
    rcases three_bits (w.extractLsb' 25 3) with hk | hk | hk | hk | hk | hk | hk | hk
    · rw [decodeArm_000 hc hk]
      exact decode000_codes hc hk
    · rw [decodeArm_001 hc hk]
      exact decode001_codes hc hk
    · rw [decodeArm_010 hc hk]
      exact decodeSingleImm_codes hc hk
    · rw [decodeArm_011 hc hk]
      split
      next h4 =>
        exact codes_armFields [4, 1, 20, 3, 4] rfl rfl (by simp_all [AgreeOn, slice_one, BitVec.extractLsb'_or])
      next h4 => exact decodeSingleReg_codes hc hk (Bool.eq_false_of_not_eq_true h4)
    · rw [decodeArm_100 hc hk]
      exact decodeBlock_codes hc hk
    · rw [decodeArm_101 hc hk]
      split
      all_goals
        exact codes_armFields [24, 1, 3, 4] rfl rfl (by simp_all [AgreeOn, slice_one, BitVec.extractLsb'_or])
    · rw [decodeArm_110 hc hk]
      exact decodeCoprocTransfer_codes hc hk
    · rw [decodeArm_111 hc hk]
      exact decode111_codes hc hk

/-! ## THUMB halfwords -/

section Thumb

variable {h : Half}

theorem decodeThumb1_codes (hk : h.extractLsb' 13 3 = 0#3) : (decodeThumb1 h).Codes (.thumb h) := by
  rcases two_bits (h.extractLsb' 11 2) with h11 | h11 | h11 | h11
  case inr.inr.inr =>
    rcases two_bits (h.extractLsb' 9 2) with h9 | h9 | h9 | h9
    all_goals
      simp only [decodeThumb1, h11, h9, BitVec.reduceToNat]
      exact codes_thumbFields [3, 3, 3, 2, 2, 3] rfl rfl (by simp [AgreeOn, BitVec.extractLsb'_or, *])
  all_goals
    simp only [decodeThumb1, h11, BitVec.reduceToNat]
    exact codes_thumbFields [3, 3, 5, 2, 3] rfl rfl (by simp [AgreeOn, BitVec.extractLsb'_or, *])

theorem decodeThumb3_codes (hk : h.extractLsb' 13 3 = 1#3) : (decodeThumb3 h).Codes (.thumb h) := by
  rcases two_bits (h.extractLsb' 11 2) with h11 | h11 | h11 | h11
  all_goals
    simp only [decodeThumb3, h11, BitVec.reduceToNat]
    exact codes_thumbFields [8, 3, 2, 3] rfl rfl (by simp [AgreeOn, BitVec.extractLsb'_or, *])

theorem decodeThumb4_codes (hk : h.extractLsb' 13 3 = 2#3) (h12 : h.getLsbD 12 = false) (h11 : h.getLsbD 11 = false)
    (h10 : h.getLsbD 10 = false) : (decodeThumb4 h).Codes (.thumb h) := by
  have hh : place 16 10 0b010000#6 ||| place 16 6 (h.extractLsb' 6 4) ||| place 16 3 (h.extractLsb' 3 3) |||
      place 16 0 (h.extractLsb' 0 3) = h :=
    eq_of_agreeOn [3, 3, 4, 1, 1, 1, 3] rfl (by simp_all [AgreeOn, slice_one, BitVec.extractLsb'_or])
  rcases four_bits (h.extractLsb' 6 4) with
    h6 | h6 | h6 | h6 | h6 | h6 | h6 | h6 | h6 | h6 | h6 | h6 | h6 | h6 | h6 | h6
  all_goals
    rw [h6] at hh
    simp only [decodeThumb4, h6, BitVec.reduceToNat]
    exact codes_thumb rfl hh

/-- A source with MSBs=1 is R8 to R15 (R122). -/
theorem hiReg_eq (h6 : h.getLsbD 6 = true) : hiReg (h.extractLsb' 3 3) = h.extractLsb' 3 4 :=
  eq_of_agreeOn [3, 1] rfl (by simp_all [AgreeOn, slice_one, hiReg, BitVec.extractLsb'_or])

theorem decodeThumb5_codes (hk : h.extractLsb' 13 3 = 2#3) (h12 : h.getLsbD 12 = false) (h11 : h.getLsbD 11 = false)
    (h10 : h.getLsbD 10 = true) : (decodeThumb5 h).Codes (.thumb h) := by
  have hh : thumbHi (h.extractLsb' 8 2) (h.getLsbD 7) (h.extractLsb' 3 4) (h.extractLsb' 0 3) = .thumb h :=
    congrArg Code.thumb (eq_of_agreeOn [3, 4, 1, 2, 1, 1, 1, 3] rfl
      (by simp_all [AgreeOn, slice_one, placeBit, BitVec.extractLsb'_or]))
  cases h7 : h.getLsbD 7 with
  | true =>
    rw [h7] at hh
    rcases two_bits (h.extractLsb' 8 2) with h8 | h8 | h8 | h8
    all_goals
      rw [h8] at hh
      simp only [decodeThumb5, h8, h7, BitVec.reduceToNat]
    case inr.inr.inr => exact codes_error
    all_goals exact codes_ok hh
  | false =>
    rw [h7] at hh
    rcases two_bits (h.extractLsb' 8 2) with h8 | h8 | h8 | h8
    case inr.inr.inr =>
      simp only [decodeThumb5, h8, h7, BitVec.reduceToNat]
      split
      next hrd => exact codes_ok (by rwa [h8, hrd] at hh)
      next => exact codes_error
    all_goals
      rw [h8] at hh
      cases h6 : h.getLsbD 6 with
      | true =>
        simp only [decodeThumb5, h8, h7, h6, BitVec.reduceToNat]
        exact codes_ok (by rwa [← hiReg_eq h6] at hh)
      | false =>
        simp only [decodeThumb5, h8, h7, h6, BitVec.reduceToNat]
        exact codes_error

theorem decodeThumb78_codes (hk : h.extractLsb' 13 3 = 2#3) (h12 : h.getLsbD 12 = true) :
    (decodeThumb78 h).Codes (.thumb h) := by
  rcases three_bits (h.extractLsb' 9 3) with h9 | h9 | h9 | h9 | h9 | h9 | h9 | h9
  all_goals
    simp only [decodeThumb78, h9, BitVec.reduceToNat]
    exact codes_thumbFields [3, 3, 3, 3, 1, 3] rfl rfl (by simp_all [AgreeOn, slice_one, BitVec.extractLsb'_or])

theorem decodeThumb010_codes (hk : h.extractLsb' 13 3 = 2#3) : (decodeThumb010 h).Codes (.thumb h) := by
  unfold decodeThumb010
  split
  next h12 => exact decodeThumb78_codes hk h12
  next h12 =>
    rw [Bool.not_eq_true] at h12
    split
    next h11 =>
      exact codes_thumbFields [8, 3, 1, 1, 3] rfl rfl (by simp_all [AgreeOn, slice_one, BitVec.extractLsb'_or])
    next h11 =>
      rw [Bool.not_eq_true] at h11
      split
      next h10 => exact decodeThumb5_codes hk h12 h11 h10
      next h10 => exact decodeThumb4_codes hk h12 h11 (Bool.eq_false_of_not_eq_true h10)

theorem decodeThumb9_codes (hk : h.extractLsb' 13 3 = 3#3) : (decodeThumb9 h).Codes (.thumb h) := by
  rcases two_bits (h.extractLsb' 11 2) with h11 | h11 | h11 | h11
  all_goals
    simp only [decodeThumb9, h11, BitVec.reduceToNat]
    exact codes_thumbFields [3, 3, 5, 2, 3] rfl rfl (by simp [AgreeOn, BitVec.extractLsb'_or, *])

theorem decodeThumb100_codes (hk : h.extractLsb' 13 3 = 4#3) : (decodeThumb100 h).Codes (.thumb h) := by
  rcases two_bits (h.extractLsb' 11 2) with h11 | h11 | h11 | h11
  all_goals simp only [decodeThumb100, h11, BitVec.reduceToNat]
  case inl | inr.inl =>
    exact codes_thumbFields [3, 3, 5, 2, 3] rfl rfl (by simp [AgreeOn, BitVec.extractLsb'_or, *])
  all_goals
    exact codes_thumbFields [8, 3, 2, 3] rfl rfl (by simp [AgreeOn, BitVec.extractLsb'_or, *])

theorem decodeThumb101_codes (hk : h.extractLsb' 13 3 = 5#3) : (decodeThumb101 h).Codes (.thumb h) := by
  unfold decodeThumb101
  split
  next h12 =>
    unfold decodeThumb1011
    split
    next h8 =>
      split
      all_goals
        exact codes_thumbFields [7, 1, 4, 1, 3] rfl rfl
          (by simp_all [AgreeOn, slice_one, placeBit, BitVec.extractLsb'_or])
    next =>
      split
      next h9 =>
        split
        all_goals
          exact codes_thumbFields [8, 1, 2, 1, 1, 3] rfl rfl
            (by simp_all [AgreeOn, slice_one, placeBit, BitVec.extractLsb'_or])
      next => exact codes_error
  next h12 =>
    split
    all_goals
      exact codes_thumbFields [8, 3, 1, 1, 3] rfl rfl (by simp_all [AgreeOn, slice_one, BitVec.extractLsb'_or])

theorem decodeThumb1101_codes (hk : h.extractLsb' 13 3 = 6#3) (h12 : h.getLsbD 12 = true) :
    (decodeThumb1101 h).Codes (.thumb h) := by
  have hh : place 16 12 0b1101#4 ||| place 16 8 (h.extractLsb' 8 4) ||| place 16 0 (h.extractLsb' 0 8) = h :=
    eq_of_agreeOn [8, 4, 1, 3] rfl (by simp_all [AgreeOn, slice_one, BitVec.extractLsb'_or])
  by_cases h14 : h.extractLsb' 8 4 = 14#4
  · simp only [decodeThumb1101, h14, BitVec.reduceToNat]
    exact codes_error
  · have hcond := four_bits (h.extractLsb' 8 4)
    simp only [h14, false_or] at hcond
    rcases hcond with h8 | h8 | h8 | h8 | h8 | h8 | h8 | h8 | h8 | h8 | h8 | h8 | h8 | h8 | h8
    all_goals
      rw [h8] at hh
      simp only [decodeThumb1101, h8, BitVec.reduceToNat]
      exact codes_thumb rfl hh

theorem decodeThumb110_codes (hk : h.extractLsb' 13 3 = 6#3) : (decodeThumb110 h).Codes (.thumb h) := by
  unfold decodeThumb110
  split
  next h12 => exact decodeThumb1101_codes hk h12
  next h12 =>
    split
    all_goals
      exact codes_thumbFields [8, 3, 1, 1, 3] rfl rfl (by simp_all [AgreeOn, slice_one, BitVec.extractLsb'_or])

theorem decodeThumb111_codes (hk : h.extractLsb' 13 3 = 7#3) : (decodeThumb111 h).Codes (.thumb h) := by
  rcases two_bits (h.extractLsb' 11 2) with h11 | h11 | h11 | h11
  all_goals simp only [decodeThumb111, h11, BitVec.reduceToNat]
  case inr.inl => exact codes_error
  all_goals exact codes_thumbFields [11, 2, 3] rfl rfl (by simp [AgreeOn, BitVec.extractLsb'_or, *])

end Thumb

/-- The THUMB decoder, by the classes of bits 15-13 (R121). -/
theorem decodeThumb_codes (h : Half) : (decodeThumb h).Codes (.thumb h) := by
  rcases three_bits (h.extractLsb' 13 3) with hk | hk | hk | hk | hk | hk | hk | hk
  · rw [decodeThumb_000 hk]
    exact decodeThumb1_codes hk
  · rw [decodeThumb_001 hk]
    exact decodeThumb3_codes hk
  · rw [decodeThumb_010 hk]
    exact decodeThumb010_codes hk
  · rw [decodeThumb_011 hk]
    exact decodeThumb9_codes hk
  · rw [decodeThumb_100 hk]
    exact decodeThumb100_codes hk
  · rw [decodeThumb_101 hk]
    exact decodeThumb101_codes hk
  · rw [decodeThumb_110 hk]
    exact decodeThumb110_codes hk
  · rw [decodeThumb_111 hk]
    exact decodeThumb111_codes hk

/-- Settles O2: each decoder's answer has the code it was read from. -/
theorem encodeOfDecode : Obligations.EncodeOfDecode :=
  ⟨decodeArm_codes, decodeThumb_codes⟩

end Sys2Proof
end

section
/-! PROOFS. Exception entry as the state after it shows it, and SWI and the Undefined instruction that take it
(spec/40_arm_branch.md R157, R160, spec/47_arm_swap_coproc.md R350, spec/60_exceptions.md R545 to R547). -/

namespace Sys2Proof.Machine

/-! ## The entry -/

theorem Exception.mode_banked (e : Exception) : e.mode ≠ .usr ∧ e.mode ≠ .sys := by cases e <;> decide

/-- Exception entry, for all seven exceptions: R14 and SPSR of the new mode, the CPSR, the PC, nothing else (R545,
R547). -/
theorem State.enter_entered {s : State} {e : Exception} {ret : Word} (hret : s.returnAddress e = ret) :
    Entered s (s.enter e) e.mode e.offset e.setsF ret := by
  refine ⟨fun g => ?link, fun m => ?spsr, rfl, ?vector, fun _ => rfl, rfl, rfl, rfl⟩
  case link => rw [State.enter_regs, Regs.get_set, hret]
  case spsr => simp only [State.enter_spsrs, Spsrs.get?_set, e.mode_banked, ne_eq, not_false_eq_true, and_true]
  case vector =>
    rw [State.enter_pc]
    exact BitVec.zero_add e.offset

/-- SWI and the Undefined Instruction exception return to the next instruction of the state they come from (R546). -/
theorem State.returnAddress_next {s : State} {e : Exception} {thumb : Bool}
    (he : e = .softwareInterrupt ∨ e = .undefined) (ht : s.cpsr.t = thumb) :
    s.returnAddress e = s.pc + if thumb then 2 else 4 := by
  rcases he with rfl | rfl <;> rw [State.returnAddress, ht]

/-! ## SWI -/

/-- SWI, condition passed (R157). -/
theorem exec_swi_pass {c : Cond} {comment : BitVec 24} {s : State} (hc : condPassed c s.cpsr.flags = true) :
    exec (.swi c comment) s = .next (s.enter .softwareInterrupt) := by
  simp only [exec, execSwi, conditional_pass hc]

/-- Settles O12: in either state the one entry, its return address by the state (R546). -/
theorem swiEntry : Obligations.SwiEntry :=
  ⟨fun _ _ _ ht hc => ⟨_, exec_swi_pass hc, State.enter_entered (State.returnAddress_next (.inl rfl) ht)⟩,
    fun _ _ ht => ⟨_, rfl, State.enter_entered (State.returnAddress_next (.inl rfl) ht)⟩⟩

/-! ## The Undefined instruction and an absent coprocessor -/

/-- The Undefined instruction, condition passed (R160). -/
theorem exec_undefined_pass {c : Cond} {high : BitVec 20} {low : BitVec 4} {s : State}
    (hc : condPassed c s.cpsr.flags = true) : exec (.undefined c high low) s = .next (s.enter .undefined) := by
  simp only [exec, execUndefined, conditional_pass hc]

/-- Settles O13: all six instructions take the one entry, from ARM state. -/
theorem undefinedEntry : Obligations.UndefinedEntry := by
  intro c high low p op rd rn o4 cd cn cm cp pre up long wb off s ht hc i hi
  have hx : exec i s = .next (s.enter .undefined) := by
    rcases hi with rfl | ⟨hp, hi⟩
    · exact exec_undefined_pass hc
    · simp only [List.mem_cons, List.not_mem_nil, or_false] at hi
      rcases hi with rfl | rfl | rfl | rfl | rfl <;>
        simp only [exec, execMrc, execMcr, execCdp, execLdc, execStc, coprocessor_absent hc hp]
  exact ⟨_, hx, State.enter_entered (State.returnAddress_next (.inr rfl) ht)⟩

end Sys2Proof.Machine
end

section
/-! PROOFS. B, BL and BX in ARM state (spec/40_arm_branch.md R150, R151, R154). -/

namespace Sys2Proof.Machine

/-! ## Targets -/

/-- A sign-extended offset, scaled: the exact product, in 32bit arithmetic (R150). -/
theorem sext_mul_ofInt {n : Nat} (off : BitVec n) (k : Int) :
    sext off * BitVec.ofInt 32 k = BitVec.ofInt 32 (off.toInt * k) := (BitVec.ofInt_mul off.toInt k).symm

/-- An aligned PC is the value rounded down to the instruction size (spec/10_state.md R29). -/
theorem alignPc_toNat (thumb : Bool) (v : Word) :
    (alignPc thumb v).toNat = if thumb then v.toNat / 2 * 2 else v.toNat / 4 * 4 := by
  cases thumb
  · show (alignWord v).toNat = v.toNat / 4 * 4
    rw [alignWord_toNat]
    omega
  · show (alignHalf v).toNat = v.toNat / 2 * 2
    rw [alignHalf_toNat]
    omega

/-! ## What a branch leaves unchanged -/

theorem SameRest.refl (s : State) : SameRest s s := ⟨rfl, rfl, rfl, rfl, rfl, rfl⟩

theorem SameRest.branchTo {s u : State} (h : SameRest s u) (target : Word) : SameRest s (u.branchTo target) := h

theorem State.exchange_sameRest (s : State) (v : Word) : SameRest s (s.exchange v) := ⟨rfl, rfl, rfl, rfl, rfl, rfl⟩

theorem State.setReg_sameRest (s : State) (i : Reg) (v : Word) : SameRest s (s.setReg i v) := by simp [SameRest]

/-! ## The instructions -/

variable {c : Cond} {off : BitVec 24} {rn : Reg} {s : State}

/-- BL, condition passed (R151). -/
theorem exec_bl_pass (hc : condPassed c s.cpsr.flags = true) :
    exec (.bl c off) s = .next ((s.setReg 14#4 (s.pc + 4)).branchTo (s.pc + 8 + sext off * 4)) := by
  simp only [exec, execBl, conditional_pass hc]

/-- BX, condition passed: R15 is refused before it is read (R154). -/
theorem exec_bx_pass (hc : condPassed c s.cpsr.flags = true) :
    exec (.bx c rn) s = refuseIf (rn == 15#4) .bxR15 (.next (s.exchange (s.reg rn 8))) := by
  simp only [exec, execBx, conditional_pass hc]

/-- Settles O39: each instruction's next state, its target by `sext_mul_ofInt` and `alignPc_toNat`. -/
theorem armBranches : Obligations.ArmBranches := by
  intro c off rn s hc
  have target : s.pc + 8 + sext off * 4 = s.pc + 8 + BitVec.ofInt 32 (off.toInt * 4) :=
    congrArg (s.pc + 8 + ·) (sext_mul_ofInt off 4)
  refine ⟨?b, ?bl, fun hn => ?bxR15, fun hn => ?bx⟩
  case b => exact ⟨_, exec_b_pass hc, target, rfl, fun _ => rfl, fun _ => rfl, (SameRest.refl s).branchTo _⟩
  case bl =>
    refine ⟨_, exec_bl_pass hc, target, s.setReg_get 14#4 _, ?_, fun a => ?_, (s.setReg_sameRest _ _).branchTo _⟩
    · simp
    · simp
  case bxR15 => rw [exec_bx_pass hc, hn, beq_self_eq_true, refuseIf_true]
  case bx =>
    refine ⟨s.exchange (s.reg rn 8), ?_, rfl, alignPc_toNat _ _, fun _ => rfl, fun _ => rfl, s.exchange_sameRest _⟩
    rw [exec_bx_pass hc, refuseIf_ne hn]

end Sys2Proof.Machine
end

section
/-! PROOFS. Codes of the spec's own examples (spec/30_encoding.md). -/

namespace Sys2Proof

/-- Settles O3, by running the decoder on the sixteen codes. -/
theorem decodeExamples : Obligations.DecodeExamples :=
  ⟨rfl, rfl, rfl, rfl, rfl, rfl, rfl, rfl, rfl, rfl, rfl, rfl, rfl, rfl, rfl, rfl⟩

end Sys2Proof
end

section
/-! PROOFS. Shifts and rotated immediates by exact arithmetic (spec/41_arm_alu.md R171 to R174). -/

namespace Sys2Proof.Machine

/-! ## The four shifts -/

theorem shiftLeft_eq_ofNat (m : Word) (k : Nat) : m <<< k = BitVec.ofNat 32 (m.toNat * 2 ^ k) := by
  apply BitVec.eq_of_toNat_eq
  rw [BitVec.toNat_shiftLeft, Nat.shiftLeft_eq, BitVec.toNat_ofNat]

theorem ushiftRight_eq_ofNat (m : Word) (k : Nat) : m >>> k = BitVec.ofNat 32 (m.toNat / 2 ^ k) := by
  rw [← Nat.shiftRight_eq_div_pow, ← BitVec.toNat_ushiftRight, BitVec.ofNat_toNat, BitVec.setWidth_eq]

theorem sshiftRight_eq_ofInt (m : Word) (k : Nat) : m.sshiftRight k = BitVec.ofInt 32 (m.toInt / 2 ^ k) := by
  have hint : (m.sshiftRight k).toInt = m.toInt / 2 ^ k := by
    rw [BitVec.toInt_sshiftRight, Int.shiftRight_eq_div_pow, Nat.cast_pow, Nat.cast_ofNat]
  rw [← hint, BitVec.ofInt_toInt]

theorem getLsbD_signFill (m : Word) {i : Nat} (hi : i < 32) : (signFill m).getLsbD i = m.getLsbD 31 := by
  have hones : (0xFFFFFFFF#32).getLsbD i = true := (BitVec.getLsbD_allOnes (v := 32)).trans (decide_eq_true hi)
  unfold signFill
  split
  case isTrue h => rw [hones, h]
  case isFalse h => rw [BitVec.getLsbD_zero, Bool.eq_false_of_not_eq_true h]

/-- From 32 places on, an arithmetic shift leaves copies of the sign alone. -/
theorem signFill_eq_ofInt (m : Word) {k : Nat} (hk : 32 ≤ k) : signFill m = BitVec.ofInt 32 (m.toInt / 2 ^ k) := by
  rw [← sshiftRight_eq_ofInt]
  apply BitVec.eq_of_getLsbD_eq
  intro i hi
  have hout : ¬ k + i < 32 := by omega
  rw [getLsbD_signFill m hi, BitVec.getLsbD_sshiftRight, if_neg hout, BitVec.msb_eq_getLsbD_last,
    decide_eq_false (Nat.not_le.mpr hi), Bool.not_false, Bool.true_and]

theorem getLsbD_ror (m : Word) (k : Nat) {j : Nat} (hj : j < 32) : (ror m k).getLsbD j = m.getLsbD ((j + k) % 32) := by
  rw [ror, BitVec.getLsbD_rotateRight]
  by_cases h : j < 32 - k % 32
  · have hbit : (j + k) % 32 = k % 32 + j := by omega
    rw [hbit, decide_eq_true h, cond_true]
  · have hbit : (j + k) % 32 = j - (32 - k % 32) := by omega
    rw [hbit, decide_eq_false h, cond_false, decide_eq_true hj, Bool.true_and]

theorem ror_zero (m : Word) : ror m 0 = m := by
  apply BitVec.eq_of_getLsbD_eq
  intro j hj
  rw [getLsbD_ror m 0 hj, Nat.add_zero, Nat.mod_eq_of_lt hj]

/-- RRX: C comes in at the top (R172). -/
theorem rrx_eq_ofNat (cin : Bool) (m : Word) :
    placeBit 32 31 cin ||| m >>> 1 = BitVec.ofNat 32 (m.toNat / 2 + cin.toNat * 2 ^ 31) := by
  have htop : (placeBit 32 31 cin).toNat = 2 ^ 31 * cin.toNat := by cases cin <;> rfl
  have hlow : m.toNat / 2 < 2 ^ 31 := by omega
  apply BitVec.eq_of_toNat_eq
  rw [BitVec.toNat_or, BitVec.toNat_ushiftRight, Nat.shiftRight_eq_div_pow, pow_one, htop,
    ← Nat.two_pow_add_eq_or_of_lt hlow, BitVec.toNat_ofNat]
  have := cin.toNat_lt
  omega

/-! ## Shifts by an immediate -/

theorem shiftImm_zero (cin : Bool) (m : Word) :
    shiftImm cin .lsl m 0#5 = ⟨m, cin⟩ ∧ shiftImm cin .lsr m 0#5 = ⟨0#32, m.getLsbD 31⟩ ∧
      shiftImm cin .asr m 0#5 = ⟨BitVec.ofInt 32 (m.toInt / 2 ^ 32), m.getLsbD 31⟩ ∧
      shiftImm cin .ror m 0#5 = ⟨BitVec.ofNat 32 (m.toNat / 2 + cin.toNat * 2 ^ 31), m.getLsbD 0⟩ := by
  rw [← signFill_eq_ofInt m (le_refl 32), ← rrx_eq_ofNat]
  exact ⟨rfl, rfl, rfl, rfl⟩

theorem shiftImm_of_ne_zero (cin : Bool) (type : ShiftType) (m : Word) {k : BitVec 5} (hk : k ≠ 0#5) :
    shiftImm cin type m k = shiftBasic type m k.toNat := if_neg hk

/-- Settles O30, the amount 0 and the amounts 1 to 31 apart; a rotated immediate is `getLsbD_ror`. -/
theorem shiftByImmediate : Obligations.ShiftByImmediate := by
  refine ⟨fun cin m k => ⟨?zero, fun hk => ?basic⟩, fun cin o => ⟨fun j hj => getLsbD_ror _ _ hj, rfl⟩⟩
  case zero =>
    rintro rfl
    exact shiftImm_zero cin m
  case basic =>
    simp only [shiftImm_of_ne_zero cin _ m hk, shiftBasic, shiftLeft_eq_ofNat, ushiftRight_eq_ofNat,
      sshiftRight_eq_ofInt, true_and, and_true]
    exact fun j hj => getLsbD_ror _ _ hj

/-! ## Shifts by a register -/

section Register

variable (cin : Bool) (type : ShiftType) (m : Word) {b : Byte}

theorem shiftReg_zero (hb : b.toNat = 0) : shiftReg cin type m b = ⟨m, cin⟩ := if_pos hb

theorem shiftReg_small (h0 : 1 ≤ b.toNat) (h : b.toNat ≤ 31) :
    shiftReg cin type m b = shiftImm cin type m (b.setWidth 5) := by
  have hnat : (b.setWidth 5).toNat = b.toNat := by
    rw [BitVec.toNat_setWidth]
    omega
  have hne : b.setWidth 5 ≠ 0#5 := by
    intro he
    rw [he, BitVec.toNat_ofNat] at hnat
    omega
  rw [shiftImm_of_ne_zero cin type m hne, hnat]
  exact (if_neg (by omega)).trans (if_pos (by omega))

/-- The table of R173 for 32 and more. -/
theorem shiftReg_large (h : 32 ≤ b.toNat) :
    shiftReg cin type m b =
      match type with
      | .lsl => ⟨0#32, decide (b.toNat = 32) && m.getLsbD 0⟩
      | .lsr => ⟨0#32, decide (b.toNat = 32) && m.getLsbD 31⟩
      | .asr => ⟨signFill m, m.getLsbD 31⟩
      | .ror => ⟨ror m (b.toNat % 32), m.getLsbD ((b.toNat + 31) % 32)⟩ := by
  have hzero : ¬ b.toNat = 0 := by omega
  have hsmall : ¬ b.toNat < 32 := by omega
  simp only [shiftReg, hzero, hsmall, if_false]
  cases type with
  | lsl => by_cases h32 : b.toNat = 32 <;> simp [h32]
  | lsr => by_cases h32 : b.toNat = 32 <;> simp [h32]
  | asr => rfl
  | ror =>
    dsimp only
    split
    case isTrue h0 =>
      have hlast : (b.toNat + 31) % 32 = 31 := by omega
      rw [h0, hlast, ror_zero]
    case isFalse h0 =>
      have hlast : (b.toNat + 31) % 32 = b.toNat % 32 - 1 := by omega
      rw [hlast]
      rfl

end Register

/-- Settles O31: `shiftReg_zero`, `shiftReg_small` and `shiftReg_large`. -/
theorem shiftByRegister : Obligations.ShiftByRegister := by
  refine fun cin m b => ⟨fun hb ty => shiftReg_zero cin ty m hb, fun h0 h ty => shiftReg_small cin ty m h0 h,
    fun hb => ?exact32, fun hb => ?above32, fun hb => ?signs⟩
  case exact32 => simp [shiftReg_large cin _ m hb.ge, hb]
  case above32 =>
    have hne : b.toNat ≠ 32 := by omega
    simp [shiftReg_large cin _ m (by omega : 32 ≤ b.toNat), hne]
  case signs =>
    simp only [shiftReg_large cin _ m hb, signFill_eq_ofInt m hb, true_and]
    refine ⟨fun j hj => ?_, trivial⟩
    rw [getLsbD_ror m _ hj, Nat.add_mod_mod]

end Sys2Proof.Machine
end

section
/-! PROOFS. Data processing: the sixteen opcodes in their three forms, Rd a register, R15 with S=0 and R15 with S=1
(spec/41_arm_alu.md R175 to R205, spec/60_exceptions.md R570), and what is refused for want of an SPSR. -/

namespace Sys2Proof.Machine

section Operations

variable {op : AluOp} {f : Op2Form} {c : Cond} {sf : Bool} {rn rd : Reg} {s : State}

/-! ## The instruction of an opcode and a form -/

/-- The first operand of an opcode, its second operand and its shifter carry, given to the machine's function: the exact
result and flags. -/
theorem AluOp.fn_operands (op : AluOp) (f : Op2Form) (rn : Reg) (s : State) :
    op.fn s.cpsr.flags (f.first rn s) (f.second s) =
      ⟨op.result (f.first rn s) (f.second s).value s.cpsr.flags.c,
        op.flags s.cpsr.flags (f.first rn s) (f.second s).value (f.second s).carry⟩ :=
  op.fn_eq s.cpsr.flags (f.first rn s) (f.second s).value (f.second s).carry

/-- A result-writing opcode, condition passed and shift register allowed; MOV and MVN do not look at Rn (R180). -/
theorem exec_alu_pass (hc : condPassed c s.cpsr.flags = true) (hf : f.allowed) (hop : op.compares = false) :
    exec (op.instr c sf rn rd f) s =
      s.aluWrite sf rd
        ⟨op.result (f.first rn s) (f.second s).value s.cpsr.flags.c,
          op.flags s.cpsr.flags (f.first rn s) (f.second s).value (f.second s).carry⟩ := by
  rw [← AluOp.fn_operands]
  cases f with
  | imm o =>
    cases op with
    | tst | teq | cmp | cmn => cases hop
    | mov | mvn => exact moveImm_pass hc
    | and | eor | sub | rsb | add | adc | sbc | rsc | orr | bic => exact aluImm_pass hc
  | shImm o =>
    cases op with
    | tst | teq | cmp | cmn => cases hop
    | mov | mvn => exact moveShImm_pass hc
    | and | eor | sub | rsb | add | adc | sbc | rsc | orr | bic => exact aluShImm_pass hc
  | shReg o =>
    cases op with
    | tst | teq | cmp | cmn => cases hop
    | mov | mvn => exact moveShReg_pass hc hf
    | and | eor | sub | rsb | add | adc | sbc | rsc | orr | bic => exact aluShReg_pass hc hf

/-- A compare, condition passed and shift register allowed: the flags alone (R180). -/
theorem exec_compare_pass (hc : condPassed c s.cpsr.flags = true) (hf : f.allowed) (hop : op.compares = true) :
    exec (op.instr c sf rn rd f) s =
      .next ((s.setFlags
        (op.flags s.cpsr.flags (f.first rn s) (f.second s).value (f.second s).carry)).advance 4) := by
  have hflags : (op.fn s.cpsr.flags (f.first rn s) (f.second s)).flags =
      op.flags s.cpsr.flags (f.first rn s) (f.second s).value (f.second s).carry :=
    congrArg AluResult.flags (AluOp.fn_operands op f rn s)
  rw [← hflags]
  cases op with
  | tst | teq | cmp | cmn =>
    cases f with
    | imm o => exact compareImm_pass hc
    | shImm o => exact compareShImm_pass hc
    | shReg o => exact compareShReg_pass hc hf
  | and | eor | sub | rsb | add | adc | sbc | rsc | orr | mov | bic | mvn => cases hop

/-! ## The end of a data-processing instruction -/

/-- Rd a register: the result, and the flags with S=1 (R180). -/
theorem State.aluWrite_reg (hd : rd ≠ 15#4) (r : AluResult) :
    s.aluWrite sf rd r =
      .next (((s.setReg rd r.value).setFlags (if sf then r.flags else s.cpsr.flags)).advance 4) := by
  have hkept : (s.setReg rd r.value).setFlags s.cpsr.flags = s.setReg rd r.value := by
    rw [State.setFlags, ← s.setReg_cpsr rd r.value]
  cases sf with
  | true => exact if_neg hd
  | false => exact (if_neg hd).trans (congrArg (fun t : State => Host.Outcome.next (t.advance 4)) hkept.symm)

/-- The return from an exception, in a mode whose SPSR holds a legal mode (R184, R570). -/
theorem State.exceptionReturn_of_spsr {p : Psr} {m : Mode} (hp : s.spsrs.get? s.cpsr.mode = some p)
    (hm : m.bits = p.m) (target : Word) :
    s.exceptionReturn target =
      .next (State.branchTo { s with cpsr := { flags := p.flags, i := p.i, f := p.f, t := p.t, mode := m } }
        (alignPc p.t target)) := by
  simp only [State.exceptionReturn, hp, ← hm, Mode.ofBits_bits]

/-! ## No SPSR -/

theorem Spsrs.get?_usr_sys (p : Spsrs) {m : Mode} (hm : m = .usr ∨ m = .sys) : p.get? m = none := by
  rcases hm with rfl | rfl <;> rfl

theorem State.exceptionReturn_none (h : s.spsrs.get? s.cpsr.mode = none) (target : Word) :
    s.exceptionReturn target = .refused .noSpsr := by simp only [State.exceptionReturn, h]

theorem State.mrs_none (h : s.spsrs.get? s.cpsr.mode = none) (rd : Reg) : s.mrs true rd = .refused .noSpsr := by
  simp only [State.mrs, h, if_true]

theorem State.msr_none (h : s.spsrs.get? s.cpsr.mode = none) (m : FieldMask) (w : Word) :
    s.msr true m w = .refused .noSpsr := by simp only [State.msr, State.msrSpsr, h, if_true]

/-- LDM^ with R15 in the list, without an SPSR to restore (R317). -/
theorem exec_ldmPcS_none {pre up wb : Bool} {list : BitVec 15} (hc : condPassed c s.cpsr.flags = true)
    (hn : rn ≠ 15#4) (h : s.spsrs.get? s.cpsr.mode = none) :
    exec (.ldmPcS c pre up wb rn list) s = .refused .noSpsr := by
  simp only [exec, execLdmPcS, conditional_pass hc, refuseIf_ne hn, h, beq_self_eq_true, refuseIf_true]

/-- MRS, condition passed (R240). -/
theorem exec_mrs_pass {spsr : Bool} (hc : condPassed c s.cpsr.flags = true) (hd : rd ≠ 15#4) :
    exec (.mrs c spsr rd) s = s.mrs spsr rd := by
  simp only [exec, execMrs, conditional_pass hc, refuseIf_ne hd]

/-- MSR from a register, condition passed (R241). -/
theorem exec_msrReg_pass {spsr : Bool} {m : FieldMask} {rm : Reg} (hc : condPassed c s.cpsr.flags = true)
    (hm : rm ≠ 15#4) : exec (.msrReg c spsr m rm) s = s.msr spsr m (s.reg rm 8) := by
  simp only [exec, execMsrReg, conditional_pass hc, refuseIf_ne hm]

/-- MSR of an immediate, condition passed (R242). -/
theorem exec_msrImm_pass {spsr : Bool} {m : FieldMask} {o : Op2Imm} (hc : condPassed c s.cpsr.flags = true) :
    exec (.msrImm c spsr m o) s = s.msr spsr m (Op2Imm.value o) := by
  simp only [exec, execMsrImm, conditional_pass hc]

end Operations

/-! ## The statements -/

/-- Settles O28: the compares by `exec_compare_pass`, the others by `exec_alu_pass` and `State.aluWrite_reg`. -/
theorem dataProcessing : Obligations.DataProcessing := by
  intro op f c sf rn rd s hc hf hrd
  cases hop : op.compares with
  | true =>
    exact ⟨_, exec_compare_pass hc hf hop, fun _ => rfl, rfl, rfl, fun _ => rfl, rfl, rfl, rfl, rfl, rfl, rfl⟩
  | false =>
    have hd : rd ≠ 15#4 := hrd.resolve_left (by simp [hop])
    refine ⟨_, (exec_alu_pass hc hf hop).trans (State.aluWrite_reg hd _), s.setReg_get rd _, ?_, ?_, fun a => ?_,
      ?_⟩
    · simp
    · simp
    · simp
    · simp [SameRest]

/-- Settles O29: R15 as Rd with S=0 is a branch to the result rounded down. -/
theorem dataProcessingToPc : Obligations.DataProcessingToPc := by
  intro op f c rn s hc hf hop
  exact ⟨_, exec_alu_pass hc hf hop, alignPc_toNat false _, rfl, fun _ => rfl, fun _ => rfl,
    (SameRest.refl s).branchTo _⟩

/-- Settles O15: R15 as Rd with S=1 is the return from an exception. -/
theorem aluExceptionReturn : Obligations.AluExceptionReturn := by
  intro op f c rn s p m hc hf hop hp hm
  refine ⟨_, (exec_alu_pass hc hf hop).trans (State.exceptionReturn_of_spsr hp hm _), rfl, ?_, fun _ => rfl,
    fun _ => rfl, rfl, rfl, rfl, rfl, rfl, rfl⟩
  rw [State.branchTo_pc, alignPc]
  split <;> rfl

/-- Settles O16: each form looks for the SPSR of the mode, and User and System mode have none (R32). -/
theorem noSpsrRefused : Obligations.NoSpsrRefused := by
  intro op f c rn rd m o pre up wb list s hc hmode hf hop hd hn
  have hnone : s.spsrs.get? s.cpsr.mode = none := s.spsrs.get?_usr_sys hmode
  exact ⟨(exec_alu_pass hc hf hop).trans (State.exceptionReturn_none hnone _), exec_ldmPcS_none hc hn hnone,
    (exec_mrs_pass hc hd).trans (State.mrs_none hnone rd), (exec_msrReg_pass hc hd).trans (State.msr_none hnone m _),
    (exec_msrImm_pass hc).trans (State.msr_none hnone m _)⟩

end Sys2Proof.Machine
end

section
/-! PROOFS. A violated operand restriction is refused under its own name: no violation is the restriction of
`Instr.wellFormed`, and each check of the machine refuses its violation (spec/93_implementation_defined.md part A). -/

namespace Sys2Proof.Machine

/-! ## No violation is well-formedness -/

section Violations

variable {wb : Bool} {rn rd rs rm : Reg}

/-- A refusal that one condition alone gives. -/
theorem ite_some_eq_none_iff {p : Prop} [Decidable p] {r : Refusal} {b : Bool} (h : ¬p ↔ b = true) :
    (if p then some r else none) = none ↔ b = true := by
  rw [← h]
  split <;> simp_all

theorem shiftViolation_eq_none_iff {o : Op2ShReg} : shiftViolation o = none ↔ o.wf = true :=
  ite_some_eq_none_iff Reg.notPc_iff.symm

theorem multiplyViolation_eq_none_iff {others : List Reg} :
    multiplyViolation rd rm others = none ↔ multiplyWf rd rm others = true := by
  have hall : others.all Reg.notPc = true ↔ 15#4 ∉ others := by
    simp only [List.all_eq_true, Reg.notPc_iff]
    exact ⟨fun h hmem => h _ hmem rfl, fun h r hr he => h (he ▸ hr)⟩
  simp only [multiplyViolation, multiplyWf, Bool.and_eq_true, bne_iff_ne, Reg.notPc_iff, hall, List.mem_cons]
  grind

theorem longMultiplyViolation_eq_none_iff {rdHi rdLo : Reg} :
    longMultiplyViolation rdHi rdLo rs rm = none ↔ longMultiplyWf rdHi rdLo rs rm = true := by
  simp only [longMultiplyViolation, longMultiplyWf, Bool.and_eq_true, bne_iff_ne, Reg.notPc_iff, List.mem_cons,
    List.not_mem_nil]
  grind

theorem writeBackViolation_eq_none_iff : writeBackViolation wb rn rd = none ↔ writeBackWf wb rn rd = true := by
  simp only [writeBackViolation, writeBackWf, Bool.or_eq_true, Bool.and_eq_true, bne_iff_ne, Reg.notPc_iff,
    Bool.not_eq_true']
  grind

theorem offsetViolation_eq_none_iff :
    offsetViolation rm wb rn rd = none ↔ (rm.notPc && writeBackWf wb rn rd) = true := by
  rw [Bool.and_eq_true, Reg.notPc_iff, ← writeBackViolation_eq_none_iff, offsetViolation]
  split <;> simp_all

theorem blockViolation_eq_none_iff {n : Nat} {list : BitVec n} {userWb : Bool} :
    blockViolation rn list.toNat userWb = none ↔ (blockWf rn list && !userWb) = true := by
  have hlist : list.toNat = 0 ↔ list = 0 := BitVec.toNat_inj (y := 0#n)
  simp only [blockViolation, blockWf, Bool.and_eq_true, bne_iff_ne, Reg.notPc_iff, hlist, Bool.not_eq_true']
  grind

theorem swapRestriction_iff : ¬ 15#4 ∈ [rn, rd, rm] ↔ (rn.notPc && rd.notPc && rm.notPc) = true := by
  simp only [List.mem_cons, List.not_mem_nil, Bool.and_eq_true, Reg.notPc_iff]
  grind

theorem coprocRestriction_iff : ¬(wb = true ∧ rn = 15#4) ↔ (!wb || rn.notPc) = true := by
  simp only [Bool.or_eq_true, Bool.not_eq_true', Reg.notPc_iff]
  grind

theorem stackRestriction_iff {extra : Bool} {list : BitVec 8} :
    ¬(extra = false ∧ list = 0#8) ↔ (extra || list != 0) = true := by
  simp only [Bool.or_eq_true, bne_iff_ne]
  grind

end Violations

/-- No violation is well-formedness, restriction by restriction. -/
theorem violation_eq_none_iff (i : Instr) : violation i = none ↔ i.wellFormed = true := by
  cases i with
  | bx | mrs | msrReg | ldmPcS => exact ite_some_eq_none_iff Reg.notPc_iff.symm
  | andShReg | eorShReg | subShReg | rsbShReg | addShReg | adcShReg | sbcShReg | rscShReg | orrShReg | bicShReg
  | tstShReg | teqShReg | cmpShReg | cmnShReg | movShReg | mvnShReg => exact shiftViolation_eq_none_iff
  | mul | mla => exact multiplyViolation_eq_none_iff
  | umull | umlal | smull | smlal => exact longMultiplyViolation_eq_none_iff
  | ldrImmPre | ldrbImmPre | strImmPre | strbImmPre | ldrImmPost | ldrbImmPost | strImmPost | strbImmPost | ldrtImm
  | ldrbtImm | strtImm | strbtImm | strhImm | ldrhImm | ldrsbImm | ldrshImm => exact writeBackViolation_eq_none_iff
  | ldrRegPre | ldrbRegPre | strRegPre | strbRegPre | ldrRegPost | ldrbRegPost | strRegPost | strbRegPost | ldrtReg
  | ldrbtReg | strtReg | strbtReg | strhReg | ldrhReg | ldrsbReg | ldrshReg => exact offsetViolation_eq_none_iff
  | stm c pre up wb rn list | ldm c pre up wb rn list =>
    exact blockViolation_eq_none_iff.trans (by rw [Bool.not_false, Bool.and_true]; rfl)
  | stmS | ldmUserS => exact blockViolation_eq_none_iff
  | swp | swpb => exact ite_some_eq_none_iff swapRestriction_iff
  | ldc | stc => exact ite_some_eq_none_iff coprocRestriction_iff
  | tPush | tPop => exact ite_some_eq_none_iff stackRestriction_iff
  | tStmia | tLdmia => exact ite_some_eq_none_iff bne_iff_ne.symm
  | _ => exact iff_of_true rfl rfl

/-! ## Each check refuses its violation -/

section Refusals

variable {c : Cond} {s : State} {r : Refusal} {k : Result} {rn rd rs rm : Reg} {f : AluFn}
  {sf wb up : Bool} {op : Transfer}

/-- A refusal behind a condition that passes. -/
theorem refused_of_pass {act : State → Result} (hc : condPassed c s.cpsr.flags = true) (h : act s = .refused r) :
    conditional c s act = .refused r := (conditional_pass hc).trans h

/-- A check of one condition, then another check. -/
theorem refuseIf_refused_else {p : Prop} [Decidable p] {b : Bool} {e : Refusal} {rest : Option Refusal}
    (hb : b = decide p) (h : (if p then some e else rest) = some r) (hrest : rest = some r → k = .refused r) :
    refuseIf b e k = .refused r := by
  split at h
  case isTrue hp => rw [hb, decide_eq_true hp, refuseIf_true, Option.some.inj h]
  case isFalse hp => rw [hb, decide_eq_false hp, refuseIf_false, hrest h]

/-- A check of one condition refuses its violation. -/
theorem refuseIf_refused {p : Prop} [Decidable p] {b : Bool} {e : Refusal} (hb : b = decide p)
    (h : (if p then some e else none) = some r) : refuseIf b e k = .refused r :=
  refuseIf_refused_else hb h nofun

theorem checkWriteBack_refused (h : writeBackViolation wb rn rd = some r) :
    checkWriteBack wb rn rd k = .refused r := by
  cases wb with
  | false => cases h
  | true => exact refuseIf_refused_else rfl h fun h' => refuseIf_refused rfl h'

theorem offset_refused (h : offsetViolation rm wb rn rd = some r) :
    refuseIf (rm == 15#4) .rmR15InTransfer (checkWriteBack wb rn rd k) = .refused r :=
  refuseIf_refused_else rfl h checkWriteBack_refused

theorem multiply_refused {others : List Reg} {acc : State → Word} {regs : List Reg}
    (hc : condPassed c s.cpsr.flags = true) (hregs : ∀ x : Reg, x ∈ regs ↔ x ∈ rs :: others)
    (h : multiplyViolation rd rm regs = some r) : multiply c sf rd rs rm others acc s = .refused r := by
  refine refused_of_pass hc (refuseIf_refused_else ?_ h fun h' => refuseIf_refused rfl h')
  simp only [List.mem_cons, hregs]
  grind

theorem longMultiply_refused {product : Word → Word → BitVec 64} {accumulate : Bool} {rdHi rdLo : Reg}
    (hc : condPassed c s.cpsr.flags = true) (h : longMultiplyViolation rdHi rdLo rs rm = some r) :
    longMultiply product accumulate c sf rdHi rdLo rs rm s = .refused r := by
  refine refused_of_pass hc (refuseIf_refused_else ?r15 h fun h' => refuseIf_refused ?equal h')
  case r15 =>
    simp only [List.mem_cons, List.not_mem_nil]
    grind
  case equal => grind

theorem shiftRegister_refused {o : Op2ShReg} (h : shiftViolation o = some r) :
    refuseIf (o.rs == 15#4) .shiftRegisterR15 k = .refused r := refuseIf_refused rfl h

theorem aluShReg_refused {o : Op2ShReg} (hc : condPassed c s.cpsr.flags = true) (h : shiftViolation o = some r) :
    aluShReg f c sf rn rd o s = .refused r := refused_of_pass hc (shiftRegister_refused h)

theorem moveShReg_refused {o : Op2ShReg} (hc : condPassed c s.cpsr.flags = true) (h : shiftViolation o = some r) :
    moveShReg f c sf rd o s = .refused r := refused_of_pass hc (shiftRegister_refused h)

theorem compareShReg_refused {o : Op2ShReg} (hc : condPassed c s.cpsr.flags = true)
    (h : shiftViolation o = some r) : compareShReg f c rn o s = .refused r :=
  refused_of_pass hc (shiftRegister_refused h)

theorem immPre_refused {off : BitVec 12} (hc : condPassed c s.cpsr.flags = true)
    (h : writeBackViolation wb rn rd = some r) : immPre op c up wb rn rd off s = .refused r :=
  refused_of_pass hc (checkWriteBack_refused h)

theorem immPost_refused {off : BitVec 12} (hc : condPassed c s.cpsr.flags = true)
    (h : writeBackViolation true rn rd = some r) : immPost op c up rn rd off s = .refused r :=
  refused_of_pass hc (checkWriteBack_refused h)

theorem halfImm_refused {ix : HalfIndex} {off : BitVec 8} (hc : condPassed c s.cpsr.flags = true)
    (h : writeBackViolation ix.writesBack rn rd = some r) : halfImm op c ix up rn rd off s = .refused r :=
  refused_of_pass hc (checkWriteBack_refused h)

theorem regPre_refused {o : Op2ShImm} (hc : condPassed c s.cpsr.flags = true)
    (h : offsetViolation o.rm wb rn rd = some r) : regPre op c up wb rn rd o s = .refused r :=
  refused_of_pass hc (offset_refused h)

theorem regPost_refused {o : Op2ShImm} (hc : condPassed c s.cpsr.flags = true)
    (h : offsetViolation o.rm true rn rd = some r) : regPost op c up rn rd o s = .refused r :=
  refused_of_pass hc (offset_refused h)

theorem halfReg_refused {ix : HalfIndex} (hc : condPassed c s.cpsr.flags = true)
    (h : offsetViolation rm ix.writesBack rn rd = some r) : halfReg op c ix up rn rd rm s = .refused r :=
  refused_of_pass hc (offset_refused h)

/-- The list is refused as the machine extends it to sixteen bits. -/
theorem block_refused {full : BitVec 16} {n : Nat} {userWb : Bool} (hfull : full = 0#16 ↔ n = 0)
    (h : blockViolation rn n userWb = some r) :
    checkBlock rn full (refuseIf userWb .userBankWriteback k) = .refused r :=
  refuseIf_refused_else rfl h fun h' =>
    refuseIf_refused_else (decide_eq_decide.mpr hfull) h' fun h'' => refuseIf_refused (by simp) h''

theorem swap_refused {kind : LoadKind} {store : StoreKind}
    (h : (if 15#4 ∈ [rn, rd, rm] then some Refusal.r15InSwap else none) = some r) :
    s.swap kind store rn rd rm = .refused r := by
  refine refuseIf_refused ?_ h
  simp only [List.mem_cons, List.not_mem_nil]
  grind

theorem coprocWriteBack_refused (h : (if wb = true ∧ rn = 15#4 then some Refusal.writebackR15 else none) = some r) :
    refuseIf (wb && rn == 15#4) .writebackR15 k = .refused r := refuseIf_refused (by grind) h

/-- The list of PUSH and POP is empty exactly when no register is named. -/
theorem stackList_eq_zero_iff {bit : Nat} (hbit : bit = 14 ∨ bit = 15) (extra : Bool) (list : BitVec 8) :
    stackList bit extra list = 0#16 ↔ extra = false ∧ list = 0#8 := by
  constructor
  · intro h0
    by_contra hne
    exact stackList_ne_zero hbit (stackRestriction_iff.mp hne) h0
  · rintro ⟨rfl, rfl⟩
    rcases hbit with rfl | rfl <;> rfl

end Refusals

/-! ## All instructions -/

/-- Settles O27, family by family: behind its condition stands the check of the restriction that `violation` names. -/
theorem illFormedRefused : Obligations.IllFormedRefused := by
  refine ⟨violation_eq_none_iff, fun i r s h hcond hcoproc => ?_⟩
  have pass {c : Cond} (hi : armCond i = some c) : condPassed c s.cpsr.flags = true := hcond c hi
  cases i with
  | bx | mrs | msrReg =>
    simp only [exec]
    exact refused_of_pass (pass rfl) (refuseIf_refused rfl h)
  | andShReg | eorShReg | subShReg | rsbShReg | addShReg | adcShReg | sbcShReg | rscShReg | orrShReg | bicShReg =>
    exact aluShReg_refused (pass rfl) h
  | tstShReg | teqShReg | cmpShReg | cmnShReg => exact compareShReg_refused (pass rfl) h
  | movShReg | mvnShReg => exact moveShReg_refused (pass rfl) h
  | mul | mla =>
    simp only [exec, execMul, execMla]
    exact multiply_refused (pass rfl) (by simp [or_comm]) h
  | umull | umlal | smull | smlal =>
    simp only [exec]
    exact longMultiply_refused (pass rfl) h
  | ldrImmPre | ldrbImmPre | strImmPre | strbImmPre => exact immPre_refused (pass rfl) h
  | ldrImmPost | ldrbImmPost | strImmPost | strbImmPost | ldrtImm | ldrbtImm | strtImm | strbtImm =>
    exact immPost_refused (pass rfl) h
  | strhImm | ldrhImm | ldrsbImm | ldrshImm => exact halfImm_refused (pass rfl) h
  | ldrRegPre | ldrbRegPre | strRegPre | strbRegPre => exact regPre_refused (pass rfl) h
  | ldrRegPost | ldrbRegPost | strRegPost | strbRegPost | ldrtReg | ldrbtReg | strtReg | strbtReg =>
    exact regPost_refused (pass rfl) h
  | strhReg | ldrhReg | ldrsbReg | ldrshReg => exact halfReg_refused (pass rfl) h
  | stm c pre up wb rn list | ldm c pre up wb rn list =>
    simp only [exec]
    exact refused_of_pass (pass rfl) (block_refused (userWb := false) BitVec.toNat_inj.symm h)
  | stmS c pre up wb rn list =>
    simp only [exec]
    exact refused_of_pass (pass rfl) (block_refused BitVec.toNat_inj.symm h)
  | ldmPcS =>
    simp only [exec, execLdmPcS]
    exact refused_of_pass (pass rfl) (refuseIf_refused rfl h)
  | ldmUserS c pre up wb rn list =>
    have hfull : place 16 0 list = 0#16 ↔ list.toNat = 0 :=
      (place_zero_eq_zero_iff (by decide) list).trans BitVec.toNat_inj.symm
    simp only [exec, execLdmUserS]
    exact refused_of_pass (pass rfl) (block_refused hfull h)
  | swp | swpb =>
    simp only [exec]
    exact refused_of_pass (pass rfl) (swap_refused h)
  | ldc | stc =>
    simp only [exec]
    exact (coprocessor_present (pass rfl) (hcoproc _ rfl)).trans (coprocWriteBack_refused h)
  | tPush lr list => exact refuseIf_refused (decide_eq_decide.mpr (stackList_eq_zero_iff (.inl rfl) lr list)) h
  | tPop pc list => exact refuseIf_refused (decide_eq_decide.mpr (stackList_eq_zero_iff (.inr rfl) pc list)) h
  | tStmia rb list | tLdmia rb list =>
    exact refuseIf_refused (decide_eq_decide.mpr (place_zero_eq_zero_iff (by decide) list)) h
  | _ => cases h

end Sys2Proof.Machine
end

section
/-! PROOFS. The ARM multiplies: their products by exact arithmetic, and the end that all six share
(spec/42_arm_multiply.md R220 to R232). -/

namespace Sys2Proof.Machine

/-! ## Products -/

/-- The value of MUL and MLA is the exact one, modulo 2^32 (R222, R223). -/
theorem mul_add_eq_ofNat {w : Nat} (a b x : BitVec w) :
    a * b + x = BitVec.ofNat w (a.toNat * b.toNat + x.toNat) := by
  simp [BitVec.ofNat_add, BitVec.ofNat_mul]

theorem umul64_eq_ofInt (a b : Word) : umul64 a b = BitVec.ofInt 64 (a.toNat * b.toNat) := by
  rw [umul64, ← BitVec.ofInt_natCast, Int.natCast_mul]

/-- RdHi:RdLo as one number (R230, R232). -/
theorem append_eq_ofInt (hi lo : Word) : hi ++ lo = BitVec.ofInt 64 (hi.toNat * 2 ^ 32 + lo.toNat) := by
  have hcast : (hi.toNat * 2 ^ 32 + lo.toNat : Int) = ((hi.toNat * 2 ^ 32 + lo.toNat : Nat) : Int) := by push_cast; rfl
  rw [hcast, BitVec.ofInt_natCast]
  apply BitVec.eq_of_toNat_eq
  rw [BitVec.toNat_append, BitVec.toNat_ofNat, ← Nat.shiftLeft_add_eq_or_of_lt lo.isLt, Nat.shiftLeft_eq,
    Nat.mod_eq_of_lt (by have := hi.isLt; have := lo.isLt; omega)]

/-! ## Flags -/

section Flags

variable (old : Nzcv) (free : Word)

@[simp] theorem mulFlags_n (r : Word) : (mulFlags old r free).n = r.getLsbD 31 := rfl
@[simp] theorem mulFlags_z (r : Word) : (mulFlags old r free).z = decide (r = 0#32) := rfl
@[simp] theorem mulFlags_v (r : Word) : (mulFlags old r free).v = old.v := rfl
@[simp] theorem longMulFlags_n (r : BitVec 64) : (longMulFlags r free).n = r.getLsbD 63 := rfl
@[simp] theorem longMulFlags_z (r : BitVec 64) : (longMulFlags r free).z = decide (r = 0#64) := rfl

end Flags

/-! ## The end of a multiply -/

/-- What every ARM multiply does when its registers are written: with S=1 it sets the flags and uses up a free value,
and it goes on to the next instruction (R221, R228). -/
def State.endMultiply (u : State) (sf : Bool) (f : Nzcv) : State :=
  (if sf then (u.setFlags f).drawn else u).advance 4

section End

variable {s u : State} {sf : Bool} {f : Nzcv}

@[simp] theorem State.endMultiply_regs : (u.endMultiply sf f).regs = u.regs := by cases sf <;> rfl
@[simp] theorem State.endMultiply_pc : (u.endMultiply sf f).pc = u.pc + 4 := by cases sf <;> rfl
@[simp] theorem State.endMultiply_mem : (u.endMultiply sf f).mem = u.mem := by cases sf <;> rfl
@[simp] theorem State.endMultiply_cpsr :
    (u.endMultiply sf f).cpsr = { u.cpsr with flags := if sf then f else u.cpsr.flags } := by cases sf <;> rfl

theorem SameRest.endMultiply (h : SameRest s u) : SameRest s (u.endMultiply sf f) := by cases sf <;> exact h

theorem SameRest.setReg {i : Reg} {v : Word} (h : SameRest s u) : SameRest s (u.setReg i v) := by
  simpa [SameRest] using h

end End

/-! ## MUL and MLA -/

section Multiply

variable {c : Cond} {sf : Bool} {rd rn rs rm : Reg} {s : State}

theorem multiply_pass {others : List Reg} {acc : State → Word} (hc : condPassed c s.cpsr.flags = true)
    (hne : rd ≠ rm) (hd : rd ≠ 15#4) (hs : rs ≠ 15#4) (hm : rm ≠ 15#4) (hothers : ∀ x ∈ others, x ≠ 15#4) :
    multiply c sf rd rs rm others acc s = s.mulWrite sf rd (s.reg rm 8 * s.reg rs 8 + acc s) := by
  have hr15 : (rd == 15#4 || rs == 15#4 || rm == 15#4 || others.any (· == 15#4)) = false := by
    simpa [hd, hs, hm] using hothers
  simp only [multiply, conditional_pass hc, hr15, refuseIf_false, refuseIf_ne hne]

/-- MUL, condition passed and operands allowed (R222). -/
theorem exec_mul_pass (hc : condPassed c s.cpsr.flags = true) (hne : rd ≠ rm) (hd : rd ≠ 15#4) (hs : rs ≠ 15#4)
    (hm : rm ≠ 15#4) :
    exec (.mul c sf rd rs rm) s =
      s.mulWrite sf rd (BitVec.ofNat 32 ((s.reg rm 8).toNat * (s.reg rs 8).toNat)) := by
  simp only [exec, execMul, multiply_pass hc hne hd hs hm (List.forall_mem_nil _), mul_add_eq_ofNat]
  rfl

/-- MLA, condition passed and operands allowed (R223). -/
theorem exec_mla_pass (hc : condPassed c s.cpsr.flags = true) (hne : rd ≠ rm) (hd : rd ≠ 15#4) (hs : rs ≠ 15#4)
    (hm : rm ≠ 15#4) (hn : rn ≠ 15#4) :
    exec (.mla c sf rd rn rs rm) s =
      s.mulWrite sf rd (BitVec.ofNat 32 ((s.reg rm 8).toNat * (s.reg rs 8).toNat + (s.reg rn 8).toNat)) := by
  simp only [exec, execMla, multiply_pass hc hne hd hs hm (List.forall_mem_singleton.mpr hn), mul_add_eq_ofNat]

/-- What O32 says of the state after MUL or MLA with the result `r`; C is left open when S=1 (R221). -/
def MultiplyEnds (s : State) (sf : Bool) (rd : Reg) (r : Word) (t : State) : Prop :=
  WritesReg s t rd r ∧ t.cpsr.flags.v = s.cpsr.flags.v ∧
    (if sf then t.cpsr.flags.n = r.getLsbD 31 ∧ t.cpsr.flags.z = decide (r = 0#32) else t.cpsr.flags = s.cpsr.flags) ∧
    t.cpsr = { s.cpsr with flags := t.cpsr.flags } ∧ t.pc = s.pc + 4 ∧ SameMemory s t ∧ SameRest s t

theorem State.mulWrite_ends (s : State) (sf : Bool) (rd : Reg) (r : Word) :
    ∃ t : State, s.mulWrite sf rd r = .next t ∧ MultiplyEnds s sf rd r t := by
  refine ⟨(s.setReg rd r).endMultiply sf (mulFlags s.cpsr.flags r s.freeWord), rfl, ?regs, ?v, ?nz, ?cpsr, ?pc,
    fun a => ?mem, (s.setReg_sameRest rd r).endMultiply⟩
  case regs => simpa [WritesReg] using s.setReg_get rd r
  case v | nz => cases sf <;> simp
  case cpsr | pc | mem => simp

end Multiply

/-! ## The long multiplies -/

/-- What O33 says of the state after a long multiply with the result `r`; C and V are left open when S=1 (R228). -/
def LongMultiplyEnds (s : State) (sf : Bool) (hi lo : Reg) (r : BitVec 64) (t : State) : Prop :=
  (∀ g : GReg, t.regs.get g =
    if physical s.cpsr.mode hi = some g then r.extractLsb' 32 32
    else if physical s.cpsr.mode lo = some g then r.extractLsb' 0 32 else s.regs.get g) ∧
  (if sf then t.cpsr.flags.n = r.getLsbD 63 ∧ t.cpsr.flags.z = decide (r = 0#64) else t.cpsr.flags = s.cpsr.flags) ∧
  t.cpsr = { s.cpsr with flags := t.cpsr.flags } ∧ t.pc = s.pc + 4 ∧ SameMemory s t ∧ SameRest s t

/-- The state that a long multiply with the result `r` leads to. -/
def State.longMulWrite (s : State) (sf : Bool) (hi lo : Reg) (r : BitVec 64) : State :=
  ((s.setReg lo (r.extractLsb' 0 32)).setReg hi (r.extractLsb' 32 32)).endMultiply sf (longMulFlags r s.freeWord)

section LongMultiply

variable {c : Cond} {sf : Bool} {hi lo rs rm : Reg} {s : State}

theorem longMultiply_pass {product : Word → Word → BitVec 64} {accumulate : Bool}
    (hc : condPassed c s.cpsr.flags = true) (hhl : hi ≠ lo) (hhm : hi ≠ rm) (hlm : lo ≠ rm) (hh : hi ≠ 15#4)
    (hl : lo ≠ 15#4) (hs : rs ≠ 15#4) (hm : rm ≠ 15#4) :
    longMultiply product accumulate c sf hi lo rs rm s =
      .next (s.longMulWrite sf hi lo
        (product (s.reg rm 8) (s.reg rs 8) + if accumulate then s.reg hi 8 ++ s.reg lo 8 else 0)) := by
  have hr15 : (hi == 15#4 || lo == 15#4 || rs == 15#4 || rm == 15#4) = false := by simp [hh, hl, hs, hm]
  have hequal : (hi == lo || hi == rm || lo == rm) = false := by simp [hhl, hhm, hlm]
  simp only [longMultiply, conditional_pass hc, hr15, hequal, refuseIf_false]
  rfl

theorem State.longMulWrite_ends (s : State) (sf : Bool) (hi lo : Reg) (r : BitVec 64) :
    LongMultiplyEnds s sf hi lo r (s.longMulWrite sf hi lo r) := by
  refine ⟨fun g => ?regs, ?nz, ?cpsr, ?pc, fun a => ?mem, (s.setReg_sameRest lo _).setReg.endMultiply⟩
  case regs => simp [State.longMulWrite, State.setReg_get]
  case nz => cases sf <;> simp [State.longMulWrite]
  case cpsr | pc | mem => simp [State.longMulWrite]

/-- With the exact value known as `x`, the product and the number added together (R229 to R232). -/
theorem longMultiply_ends {product : Word → Word → BitVec 64} {accumulate : Bool} {x : Int}
    (hc : condPassed c s.cpsr.flags = true) (hhl : hi ≠ lo) (hhm : hi ≠ rm) (hlm : lo ≠ rm) (hh : hi ≠ 15#4)
    (hl : lo ≠ 15#4) (hs : rs ≠ 15#4) (hm : rm ≠ 15#4)
    (hx : product (s.reg rm 8) (s.reg rs 8) + (if accumulate then s.reg hi 8 ++ s.reg lo 8 else 0) =
      BitVec.ofInt 64 x) :
    ∃ t : State, longMultiply product accumulate c sf hi lo rs rm s = .next t ∧
      LongMultiplyEnds s sf hi lo (BitVec.ofInt 64 x) t := by
  rw [longMultiply_pass hc hhl hhm hlm hh hl hs hm, hx]
  exact ⟨_, rfl, s.longMulWrite_ends sf hi lo _⟩

end LongMultiply

end Sys2Proof.Machine

/-! ## The statements -/

namespace Sys2Proof

open Machine

/-- Settles O32: MUL and MLA end alike, each with its exact value. -/
theorem multiply : Obligations.Multiply := by
  intro c sf rd rn rs rm s hc hne hd hs hm
  refine ⟨?mul, fun hn => ?mla⟩
  case mul =>
    rw [exec_mul_pass hc hne hd hs hm]
    exact s.mulWrite_ends sf rd _
  case mla =>
    rw [exec_mla_pass hc hne hd hs hm hn]
    exact s.mulWrite_ends sf rd _

/-- Settles O33: each result is the sum of a 64bit product and the number added, both taken exactly. -/
theorem longMultiply : Obligations.LongMultiply := by
  intro c sf hi lo rs rm s hc hhl hhm hlm hh hl hs hm acc uns sig after
  have ends (product : Word → Word → BitVec 64) (accumulate : Bool) (x : Int) :=
    longMultiply_ends (product := product) (accumulate := accumulate) (x := x) (sf := sf) hc hhl hhm hlm hh hl hs hm
  have huns : umul64 (s.reg rm 8) (s.reg rs 8) = BitVec.ofInt 64 uns := umul64_eq_ofInt _ _
  have hsig : smul64 (s.reg rm 8) (s.reg rs 8) = BitVec.ofInt 64 sig := rfl
  have add {p : BitVec 64} {x : Int} (hp : p = BitVec.ofInt 64 x) :
      p + (s.reg hi 8 ++ s.reg lo 8) = BitVec.ofInt 64 (x + acc) := by
    rw [BitVec.ofInt_add, ← hp, append_eq_ofInt]
  exact ⟨ends umul64 false uns ((BitVec.add_zero _).trans huns), ends umul64 true (uns + acc) (add huns),
    ends smul64 false sig ((BitVec.add_zero _).trans hsig), ends smul64 true (sig + acc) (add hsig)⟩

end Sys2Proof
end

section
/-! PROOFS. MRS and MSR: the word of a PSR gives its bits back, and what each transfer leads to for either PSR and in
every mode (spec/43_arm_psr.md R240 to R248). -/

namespace Sys2Proof.Machine

/-! ## The word of a PSR -/

/-- The layout of R33: the bits that are state stand where they are read, whatever bits 27-8 are (R36). -/
theorem Psr.ofWord_toWord (p : Psr) (reserved : BitVec 20) : Psr.ofWord (p.toWord reserved) = p := by
  have hmode : (p.toWord reserved).extractLsb' 0 5 = p.m := by
    simp [Psr.toWord, psrWord, Nzcv.toWord, placeBit, BitVec.extractLsb'_or]
  rw [Psr.ofWord, hmode]
  simp [Psr.toWord, psrWord, Nzcv.toWord, Nzcv.ofWord, placeBit]

/-! ## MRS, and MSR to the SPSR -/

section Transfers

variable {s : State} {p : Psr} {m : FieldMask} {w : Word}

/-- MRS writes the word of the PSR that it selects (R240). -/
theorem State.mrs_selected {spsr : Bool} (rd : Reg)
    (hp : if spsr then s.spsrs.get? s.cpsr.mode = some p else p = s.cpsr.saved) :
    s.mrs spsr rd = .next ((s.setReg rd (p.toWord (s.freeWord.extractLsb' 0 20))).drawn.advance 4) := by
  cases spsr with
  | true => rw [if_pos rfl] at hp; simp only [State.mrs, if_true, hp]
  | false => cases hp; rfl

/-- MSR to the SPSR, in a mode that has one (R243, R248). -/
theorem State.msr_spsr (hp : s.spsrs.get? s.cpsr.mode = some p) :
    s.msr true m w = .next (State.advance { s with spsrs := s.spsrs.set s.cpsr.mode (p.merge m w) } 4) := by
  simp only [State.msr, State.msrSpsr, hp, if_true]

/-- An SPSR written is read back in a mode that has one. -/
theorem Spsrs.get?_set_same {r : Spsrs} {mode : Mode} (hp : r.get? mode = some p) (q : Psr) :
    (r.set mode q).get? mode = some q := by
  have hhas : mode ≠ .usr ∧ mode ≠ .sys := by
    constructor <;> rintro rfl <;> cases hp
  rw [Spsrs.get?_set, if_pos ⟨rfl, hhas⟩]

theorem Spsrs.get?_set_ne {r : Spsrs} {mode mode' : Mode} (hne : mode' ≠ mode) (q : Psr) :
    (r.set mode q).get? mode' = r.get? mode' := by
  rw [Spsrs.get?_set, if_neg fun ⟨hsame, _⟩ => hne hsame]

/-! ## MSR to the CPSR -/

/-- Bits that name none of the seven modes (R39). -/
theorem Mode.ofBits_none {b : BitVec 5} (h : ∀ m : Mode, m.bits ≠ b) : Mode.ofBits b = none :=
  Option.eq_none_iff_forall_ne_some.mpr fun m hm => h m (Mode.bits_of_ofBits hm)

theorem Psr.merge_t : (p.merge m w).t = if m.c then w.getLsbD 5 else p.t := rfl
theorem Psr.merge_m : (p.merge m w).m = if m.c then w.extractLsb' 0 5 else p.m := rfl

/-- The bits that MSR would give the CPSR: in User mode the control field keeps its own (R243, R245). -/
def Cpsr.msrBits (q : Cpsr) (m : FieldMask) (w : Word) : Psr :=
  q.saved.merge { m with c := m.c && q.mode.privileged } w

/-- A privileged mode writes the fields of the mask (R244, R246). -/
theorem Cpsr.msrBits_privileged {q : Cpsr} (hq : q.mode ≠ .usr) : q.msrBits m w = q.saved.merge m w := by
  have hpriv : q.mode.privileged = true := bne_iff_ne.mpr hq
  rw [Cpsr.msrBits, hpriv, Bool.and_true]

/-- User mode writes the flags alone (R245). -/
theorem Cpsr.msrBits_user {q : Cpsr} (hq : q.mode = .usr) :
    q.msrBits m w = { q.saved with flags := if m.f then Nzcv.ofWord w else q.flags } := by
  have hpriv : q.mode.privileged = false := bne_eq_false_iff_eq.mpr hq
  rw [Cpsr.msrBits, hpriv, Bool.and_false]
  rfl

/-- MSR to the CPSR that keeps T and names a mode (R243). -/
theorem State.msr_cpsr {mode : Mode} (ht : (s.cpsr.msrBits m w).t = s.cpsr.t)
    (hmode : mode.bits = (s.cpsr.msrBits m w).m) :
    s.msr false m w =
      .next (State.advance
        { s with cpsr :=
          { flags := (s.cpsr.msrBits m w).flags, i := (s.cpsr.msrBits m w).i, f := (s.cpsr.msrBits m w).f,
            t := s.cpsr.t, mode := mode } } 4) := by
  unfold Cpsr.msrBits at ht hmode ⊢
  simp only [State.msr, State.msrCpsr, ht, ← hmode, Mode.ofBits_bits, bne_self_eq_false, refuseIf_false,
    Bool.false_eq_true, if_false]

/-- MSR to the CPSR that would change T (R246). -/
theorem State.msr_cpsr_t (ht : (s.cpsr.msrBits m w).t ≠ s.cpsr.t) : s.msr false m w = .refused .tChangedByMsr := by
  have hcheck : ((s.cpsr.msrBits m w).t != s.cpsr.t) = true := bne_iff_ne.mpr ht
  exact congrArg (refuseIf · _ _) hcheck

/-- MSR to the CPSR that keeps T and names no mode (R39). -/
theorem State.msr_cpsr_mode (ht : (s.cpsr.msrBits m w).t = s.cpsr.t)
    (hmode : ∀ m' : Mode, m'.bits ≠ (s.cpsr.msrBits m w).m) : s.msr false m w = .refused .illegalMode := by
  unfold Cpsr.msrBits at ht hmode
  simp only [State.msr, State.msrCpsr, ht, Mode.ofBits_none hmode, bne_self_eq_false, refuseIf_false,
    Bool.false_eq_true, if_false]

/-! ## Both forms -/

/-- Either form, condition passed: the one transfer of the operand (R241, R242, R243). -/
theorem exec_msr_pass {c : Cond} {rm : Reg} {o : Op2Imm} {spsr : Bool} {i : Instr}
    (hc : condPassed c s.cpsr.flags = true) (hm : rm ≠ 15#4)
    (hi : i = .msrReg c spsr m rm ∧ w = s.reg rm 8 ∨ i = .msrImm c spsr m o ∧ w = Op2Imm.value o) :
    exec i s = s.msr spsr m w := by
  obtain ⟨rfl, rfl⟩ | ⟨rfl, rfl⟩ := hi
  · exact exec_msrReg_pass hc hm
  · exact exec_msrImm_pass hc

end Transfers

/-! ## The statements -/

/-- Settles O34: the word that MRS writes gives back every bit of the PSR. -/
theorem mrsReads : Obligations.MrsReads := by
  intro c spsr rd s p hc hd hp
  obtain ⟨v, hv, hexec⟩ : ∃ v : Word, Psr.ofWord v = p ∧
      exec (.mrs c spsr rd) s = .next ((s.setReg rd v).drawn.advance 4) :=
    ⟨_, p.ofWord_toWord _, (exec_mrs_pass hc hd).trans (State.mrs_selected rd hp)⟩
  subst hv
  refine ⟨_, v, hexec, s.setReg_get rd v, rfl, rfl, rfl, rfl, rfl, rfl, rfl, rfl, ?_, ?_, fun a => ?_,
    s.setReg_sameRest rd v⟩
  all_goals simp

/-- Settles O35: the bits written keep T and name the mode, in the control field by hypothesis, else as they were. -/
theorem msrCpsrPrivileged : Obligations.MsrCpsrPrivileged := by
  intro c m rm o s mode hc hpriv hm i w hi hctl hold
  have hbits := Cpsr.msrBits_privileged (m := m) (w := w) hpriv
  have hkept : (s.cpsr.msrBits m w).t = s.cpsr.t ∧ mode.bits = (s.cpsr.msrBits m w).m := by
    rw [hbits, Psr.merge_t, Psr.merge_m]
    cases hmc : m.c with
    | true => exact hctl hmc
    | false => exact ⟨rfl, congrArg Mode.bits (hold hmc)⟩
  obtain ⟨ht, hmode⟩ := hkept
  refine ⟨_, (exec_msr_pass hc hm hi).trans (State.msr_cpsr ht hmode), ?_, ?_, ?_, rfl, rfl, fun _ => rfl, rfl,
    fun _ => rfl, rfl, rfl, rfl, rfl, rfl, rfl⟩
  all_goals rw [hbits]; rfl

/-- Settles O36: the bits written are those of the CPSR but for the flags, so no check refuses them. -/
theorem msrCpsrUser : Obligations.MsrCpsrUser := by
  intro c m rm o s hc huser hm i w hi
  have hbits := Cpsr.msrBits_user (m := m) (w := w) huser
  refine ⟨_, (exec_msr_pass hc hm hi).trans (State.msr_cpsr (mode := s.cpsr.mode) ?t ?mode), ?cpsr, fun _ => rfl, rfl,
    fun _ => rfl, rfl, rfl, rfl, rfl, rfl, rfl⟩
  all_goals rw [hbits]; rfl

/-- Settles O37: the SPSR of the mode is written, read back as the merge, and no other one is. -/
theorem msrSpsr : Obligations.MsrSpsr := by
  intro c m rm o s p hc hp hm i w hi
  exact ⟨_, (exec_msr_pass hc hm hi).trans (State.msr_spsr hp), Spsrs.get?_set_same hp (p.merge m w),
    fun m' hne => Spsrs.get?_set_ne hne _, rfl, fun _ => rfl, rfl, fun _ => rfl, rfl⟩

/-- Settles O38: with the control field selected, T and the mode bits are those of the word. -/
theorem msrRefused : Obligations.MsrRefused := by
  intro c m rm o s hc hpriv hm hmc i w hi
  have hbits := Cpsr.msrBits_privileged (m := m) (w := w) hpriv
  have ht : (s.cpsr.msrBits m w).t = w.getLsbD 5 := by rw [hbits, Psr.merge_t, if_pos hmc]
  have hmode : (s.cpsr.msrBits m w).m = w.extractLsb' 0 5 := by rw [hbits, Psr.merge_m, if_pos hmc]
  rw [exec_msr_pass hc hm hi, ← ht, ← hmode]
  exact ⟨State.msr_cpsr_t, State.msr_cpsr_mode⟩

end Sys2Proof.Machine
end

section
/-! PROOFS. LDR, LDRB, STR, STRB and their T forms (spec/44_arm_single_transfer.md): what a load and a store of RAM
leave when the base may be written back, and the value that each load delivers. -/

namespace Sys2Proof.Machine

/-! ## What write-back, advance and a store of RAM leave unchanged -/

section Frame

variable {s u : State}

theorem SameRest.writeBack {rn : Reg} {a : Addressing} (h : SameRest s u) : SameRest s (u.writeBack rn a) := by
  simpa [SameRest] using h

theorem SameRest.advance {n : Word} (h : SameRest s u) : SameRest s (u.advance n) := h

theorem State.put_sameRest {addr : Word} {w : Width} {v : Word} (h : s.isDevice addr = false) :
    SameRest s (s.put addr w v) := by
  simp [SameRest, State.put_deviceLog h]

end Frame

/-! ## A load and a store of RAM -/

section Ram

variable {s : State} {user wb : Bool} {size : Word} {rn rd : Reg} {ea idx : Word}

/-- The base where the form writes it back (R261). -/
theorem State.writeBack_writesBase (s : State) (rn : Reg) (wb : Bool) (ea idx : Word) :
    WritesBase s (s.writeBack rn ⟨ea, if wb then some idx else none⟩) rn wb idx := by
  intro g
  cases wb <;> simp [State.writeBack_get]

/-- Rd is written after the base (R261). -/
theorem WritesBase.setReg {u : State} {v : Word} (h : WritesBase s u rn wb idx) (hmode : u.cpsr = s.cpsr) :
    WritesRegAndBase s (u.setReg rd v) rd v rn wb idx := by
  intro g
  rw [State.setReg_get, hmode, h g]

/-- What a load of `v` leaves: Rd or the PC, and the base (R261, R266). -/
def LoadEnds (s : State) (size : Word) (rn rd : Reg) (wb : Bool) (idx v : Word) (t : State) : Prop :=
  (if rd = 15#4 then t.pc.toNat = v.toNat / 4 * 4 ∧ WritesBase s t rn wb idx
   else t.pc = s.pc + size ∧ WritesRegAndBase s t rd v rn wb idx) ∧
  t.cpsr = s.cpsr ∧ SameMemory s t ∧ SameRest s t

/-- A load of RAM, with or without write-back. -/
theorem State.load_ends {k : LoadKind} (h : ReachesRam s .read user ea (k.address ea) (k.width ea)) :
    ∃ t : State, s.load k user size rn rd ⟨ea, if wb then some idx else none⟩ = .next t ∧
      LoadEnds s size rn rd wb idx (k.deliver ea (s.mem.read (k.address ea) (k.width ea))) t := by
  refine ⟨_, State.load_ram h, ?_⟩
  have base := s.writeBack_writesBase rn wb ea idx
  have rest := (SameRest.refl s).writeBack (rn := rn) (a := ⟨ea, if wb then some idx else none⟩)
  unfold LoadEnds
  by_cases hd : rd = 15#4
  · simp only [if_pos hd]
    exact ⟨⟨alignPc_toNat false _, base⟩, s.writeBack_cpsr rn _, fun a => by simp, rest.branchTo _⟩
  · simp only [if_neg hd]
    exact ⟨⟨by simp, base.setReg (s.writeBack_cpsr rn _)⟩, by simp, fun a => by simp, rest.setReg.advance⟩

/-- What a store of `v` leaves: its bytes, and the base (R261). -/
def StoreEnds (s : State) (size addr : Word) (w : Width) (v : Word) (rn : Reg) (wb : Bool) (idx : Word)
    (t : State) : Prop :=
  Holds t addr w v ∧ SameMemoryOutside s t addr.toNat (widthBytes w) ∧ WritesBase s t rn wb idx ∧ t.cpsr = s.cpsr ∧
    t.pc = s.pc + size ∧ SameRest s t

/-- A store to RAM, with or without write-back. -/
theorem State.store_ends {k : StoreKind} (hwf : s.mem.wf = true)
    (h : ReachesRam s .write user ea (k.address ea) k.width) :
    ∃ t : State, s.store k user size rn rd ⟨ea, if wb then some idx else none⟩ = .next t ∧
      StoreEnds s size (k.address ea) k.width (s.reg rd 12) rn wb idx t := by
  refine ⟨_, State.store_ram h, fun j hj => ?holds, fun b hb => ?outside, fun g => ?base, ?cpsr, ?pc,
    (State.put_sameRest h.2).writeBack.advance⟩
  case holds => simpa [State.put_mem h.2, byteOf] using Memory.get_write_inside hwf (s.reg rd 12) (k.room ea) hj
  case outside =>
    simpa [State.put_mem h.2] using Memory.get_write_other s.mem (k.address ea) k.width (s.reg rd 12) b hb
  case base =>
    simpa using (s.put (k.address ea) k.width (s.reg rd 12)).writeBack_writesBase rn wb ea idx g
  case cpsr | pc => simp

end Ram

/-! ## The loads of the family -/

/-- The load that a single transfer makes: LDR a word, LDRB a byte. -/
inductive SingleOp.Loads : SingleOp → LoadKind → Prop where
  | ldr : Loads .ldr .word
  | ldrb : Loads .ldrb .byte

section Loads

variable {op : SingleOp} {k : LoadKind}

theorem SingleOp.Loads.width_eq (h : op.Loads k) (ea : Word) : k.width ea = op.width := by cases h <;> rfl

theorem SingleOp.Loads.address_eq (h : op.Loads k) (ea : Word) : k.address ea = op.address ea := by cases h <;> rfl

/-- The low two bits of an address count the bytes by which it is rounded down (spec/20_memory.md R65). -/
theorem extractLsb'_two_toNat (ea : Word) : (ea.extractLsb' 0 2).toNat = ea.toNat % 4 := by simp

/-- What is delivered is the rotated word or the zero-extended byte (R65, R270, R271). -/
theorem SingleOp.Loads.deliver_eq (h : op.Loads k) (s : State) (ea : Word) :
    k.deliver ea (s.mem.read (k.address ea) (k.width ea)) = op.loaded s ea := by
  cases h with
  | ldr => exact congrArg (fun n => ror (s.mem.read (alignWord ea) .word) (8 * n)) (extractLsb'_two_toNat ea)
  | ldrb => rfl

/-- LDR and LDRB in each form, condition passed and operands allowed, are the one load (R261, R263). -/
theorem exec_singleLoad (hop : op.Loads k) {f : SingleForm} {c : Cond} {up : Bool} {rn rd : Reg} {s : State}
    (hc : condPassed c s.cpsr.flags = true) (hf : f.allowed rn rd) :
    exec (op.instr c up rn rd f) s = s.load k (f.user s) 4 rn rd (f.addressing up rn s) := by
  obtain ⟨hrm, hwb⟩ := hf
  cases f with
  | immPre wb off => cases hop <;> exact immPre_pass hc hwb
  | immPost off => cases hop <;> exact immPost_pass hc (hwb rfl)
  | regPre wb o => cases hop <;> exact regPre_pass hc hrm hwb
  | regPost o => cases hop <;> exact regPost_pass hc hrm (hwb rfl)
  | immT off => cases hop <;> exact immPost_pass hc (hwb rfl)
  | regT o => cases hop <;> exact regPost_pass hc hrm (hwb rfl)

end Loads

/-! ## The statements -/

/-- Settles O40: every form is the one load (`exec_singleLoad`), and what it delivers is `SingleOp.loaded`. -/
theorem singleLoads : Obligations.SingleLoads := by
  intro op f c up rn rd s hop hc hf hram
  obtain ⟨k, hk⟩ : ∃ k, op.Loads k := by
    rcases hop with rfl | rfl
    exacts [⟨_, .ldr⟩, ⟨_, .ldrb⟩]
  rw [← hk.address_eq, ← hk.width_eq (f.ea up rn s)] at hram
  rw [exec_singleLoad hk hc hf, ← hk.deliver_eq]
  exact State.load_ends hram

/-- Settles O41: every form is the one store (`exec_singleStore`). -/
theorem singleStores : Obligations.SingleStores := by
  intro op f c up rn rd s hop hc hf hwf hram
  obtain ⟨k, hk⟩ : ∃ k, op.Stores k := by
    rcases hop with rfl | rfl
    exacts [⟨_, .str⟩, ⟨_, .strb⟩]
  rw [exec_singleStore hk hc hf]
  rw [← hk.address_eq, ← hk.width_eq] at hram ⊢
  exact State.store_ends hwf hram

end Sys2Proof.Machine
end

section
/-! PROOFS. LDRH, LDRSB, LDRSH and STRH (spec/45_arm_halfword_transfer.md): the two offsets lead to one addressing, and
the value that each load delivers at an even and at an odd address. -/

namespace Sys2Proof.Machine

/-! ## The two forms -/

section Forms

variable {f : HalfForm} {c : Cond} {ix : HalfIndex} {up : Bool} {rn rd : Reg} {s : State}

/-- `ea`, and `idx` where the form writes it back (R291). -/
def HalfForm.addressing (f : HalfForm) (ix : HalfIndex) (up : Bool) (rn : Reg) (s : State) : Addressing :=
  ⟨f.ea ix up rn s, if ix.writesBack then some (f.idx up rn s) else none⟩

theorem halfIndexed_reg {rm : Reg} :
    halfIndexed ix up (s.reg rn 8) (s.reg rm 8) = (HalfForm.reg rm).addressing ix up rn s := by cases ix <;> rfl

theorem halfIndexed_imm {off : BitVec 8} :
    halfIndexed ix up (s.reg rn 8) (zext off) = (HalfForm.imm off).addressing ix up rn s := by cases ix <;> rfl

/-- A load or a store with either offset (R290). -/
def HalfForm.transfer (f : HalfForm) (act : Transfer) (c : Cond) (ix : HalfIndex) (up : Bool) (rn rd : Reg)
    (s : State) : Result :=
  match f with
  | .reg rm => halfReg act c ix up rn rd rm s
  | .imm off => halfImm act c ix up rn rd off s

theorem HalfForm.transfer_pass {act : Transfer} (hc : condPassed c s.cpsr.flags = true) (hf : f.allowed ix rn rd) :
    f.transfer act c ix up rn rd s = act s rn rd (f.addressing ix up rn s) := by
  obtain ⟨hrm, hwb⟩ := hf
  cases f with
  | reg rm => exact (halfReg_pass hc hrm hwb).trans (congrArg _ halfIndexed_reg)
  | imm off => exact (halfImm_pass hc hwb).trans (congrArg _ halfIndexed_imm)

/-- The load that a halfword load makes (R296, R297, R298). -/
def HalfLoad.kind : HalfLoad → LoadKind
  | .ldrh => .half
  | .ldrsb => .signedByte
  | .ldrsh => .signedHalf

theorem exec_halfLoad (op : HalfLoad) :
    exec (op.instr c ix up rn rd f) s = f.transfer (loadOp op.kind) c ix up rn rd s := by
  cases f <;> cases op <;> rfl

theorem exec_strh : exec (strhInstr c ix up rn rd f) s = f.transfer (storeOp .half) c ix up rn rd s := by
  cases f <;> rfl

end Forms

/-! ## The access and the value of a load -/

section Values

/-- Bit 0 says whether an address is odd (spec/20_memory.md R66, R67). -/
theorem getLsbD_zero_iff_odd (ea : Word) : ea.getLsbD 0 = true ↔ ea.toNat % 2 = 1 := by
  simp [BitVec.getLsbD, Nat.testBit_zero]

theorem HalfLoad.address_eq (op : HalfLoad) (ea : Word) : op.kind.address ea = op.address ea := by cases op <;> rfl

theorem HalfLoad.width_eq (op : HalfLoad) (ea : Word) : op.kind.width ea = op.width ea := by
  cases op with
  | ldrh | ldrsb => rfl
  | ldrsh => exact if_congr (getLsbD_zero_iff_odd ea) rfl rfl

theorem halfOfBytes_eq_append (b0 b1 : Byte) : halfOfBytes b0 b1 = b1 ++ b0 := by
  have h := BitVec.setWidth_append_eq_shiftLeft_setWidth_or (b := b1) (b' := b0) (w'' := 16)
  rw [BitVec.setWidth_eq] at h
  rw [halfOfBytes, place, place, BitVec.shiftLeft_zero, h]

/-- A halfword is read with its upper byte from the upper address (spec/20_memory.md R61). -/
theorem Memory.read_half (m : Memory) (a : Word) :
    m.read a .half = zext (m.get (a.toNat + 1) ++ m.get a.toNat) := by
  rw [← halfOfBytes_eq_append]
  rfl

theorem zext_append (b0 b1 : Byte) : zext (b1 ++ b0) = 0#16 ++ b1 ++ b0 := by
  rw [zext, BitVec.setWidth_eq_append (by decide)]
  exact BitVec.append_assoc.symm

/-- Rotated right by 8, the lower byte of a halfword comes to the top (spec/20_memory.md R66). -/
theorem ror_zext_append (b0 b1 : Byte) : ror (zext (b1 ++ b0)) 8 = b0 ++ 0#16 ++ b1 := by
  apply BitVec.eq_of_getLsbD_eq
  intro i hi
  simp only [ror, zext, BitVec.getLsbD_rotateRight, BitVec.getLsbD_append, BitVec.getLsbD_setWidth, BitVec.getLsbD_zero]
  rcases (by omega : i < 8 ∨ 8 ≤ i ∧ i < 24 ∨ 24 ≤ i) with low | middle | high
  · simp [low, show i < 24 by omega, show 8 + i < 32 by omega]
  · simp [middle, show ¬ i < 8 by omega, show i - 8 < 16 by omega]
  · simp [hi, show ¬ i < 8 by omega, show ¬ i < 24 by omega, show ¬ i - 8 < 16 by omega, show i - 24 < 8 by omega,
      show i - 24 < 32 by omega, Nat.sub_sub]

theorem extractLsb'_zext {n : Nat} (hn : n ≤ 32) (v : BitVec n) : (zext v).extractLsb' 0 n = v := by
  rw [zext, BitVec.extractLsb'_setWidth_of_le (by omega), BitVec.extractLsb'_eq_self]

/-- What is delivered, byte by byte (spec/20_memory.md R66, R67). -/
theorem HalfLoad.deliver_eq (op : HalfLoad) (s : State) (ea : Word) :
    op.kind.deliver ea (s.mem.read (op.kind.address ea) (op.kind.width ea)) = op.loaded s ea := by
  have hodd := getLsbD_zero_iff_odd ea
  cases op with
  | ldrh =>
    simp only [HalfLoad.kind, LoadKind.deliver, LoadKind.address, LoadKind.width, HalfLoad.loaded, Memory.read_half,
      alignHalf_toNat, hodd]
    split
    case isTrue h => rw [h, ror_zext_append, Nat.sub_add_cancel (by omega)]
    case isFalse h => rw [Nat.mod_two_ne_one.mp h, zext_append, Nat.sub_zero]
  | ldrsb => exact congrArg sext (extractLsb'_zext (by decide) _)
  | ldrsh =>
    simp only [HalfLoad.kind, LoadKind.deliver, LoadKind.address, LoadKind.width, HalfLoad.loaded, hodd]
    split
    case isTrue => exact congrArg sext (extractLsb'_zext (by decide) _)
    case isFalse =>
      rw [Memory.read_half]
      exact congrArg sext (extractLsb'_zext (by decide) _)

end Values

/-! ## The statements -/

/-- Settles O42: either form is the one load (`HalfForm.transfer_pass`), and what it delivers is `HalfLoad.loaded`. -/
theorem halfwordLoads : Obligations.HalfwordLoads := by
  intro op f c ix up rn rd s hc hf hram
  rw [← op.address_eq, ← op.width_eq] at hram
  rw [exec_halfLoad, HalfForm.transfer_pass hc hf, ← op.deliver_eq]
  exact State.load_ends hram

/-- Settles O43: either form is the one store (`HalfForm.transfer_pass`). -/
theorem halfwordStores : Obligations.HalfwordStores := by
  intro f c ix up rn rd s hc hf hwf hram
  rw [exec_strh, HalfForm.transfer_pass hc hf]
  exact State.store_ends (k := .half) hwf hram

end Sys2Proof.Machine
end

section
/-! PROOFS. LDM, STM, PUSH, POP, LDMIA and STMIA (spec/46_arm_block_transfer.md R312 to R319,
spec/49_thumb_memory_branch.md R493 to R503): every form is one transfer of its `BlockView`. -/

namespace Sys2Proof.Machine

/-! ## Lists -/

theorem place_zero_eq_setWidth {n : Nat} (list : BitVec n) : place 16 0 list = list.setWidth 16 :=
  BitVec.shiftLeft_zero _

/-- A list and one register above those it can name. -/
theorem placeBit_or_place_eq_ofNat {n bit : Nat} (hn : n ≤ bit) (hbit : bit < 16) (extra : Bool) (list : BitVec n) :
    placeBit 16 bit extra ||| place 16 0 list = BitVec.ofNat 16 (list.toNat + 2 ^ bit * extra.toNat) := by
  have hlist : list.toNat < 2 ^ bit := lt_of_lt_of_le list.isLt (Nat.pow_le_pow_right (by decide) hn)
  have hdouble : 2 ^ (bit + 1) ≤ 2 ^ 16 := Nat.pow_le_pow_right (by decide) hbit
  rw [Nat.pow_succ] at hdouble
  have hroom : 2 ^ bit < 65536 := by omega
  have hextra : (placeBit 16 bit extra).toNat = 2 ^ bit * extra.toNat := by
    cases extra <;> simp [placeBit, place, Nat.shiftLeft_eq, hroom]
  have hsum : list.toNat + 2 ^ bit * extra.toNat < 2 ^ 16 := by
    have hlast : 2 ^ bit * extra.toNat ≤ 2 ^ bit * 1 := Nat.mul_le_mul_left _ extra.toNat_le
    omega
  apply BitVec.eq_of_toNat_eq
  rw [BitVec.toNat_or, hextra, place_zero_eq_setWidth, BitVec.toNat_setWidth, BitVec.toNat_ofNat,
    Nat.mod_eq_of_lt (by omega : list.toNat < 2 ^ 16), Nat.mod_eq_of_lt hsum, ← Nat.two_pow_add_eq_or_of_lt hlist,
    Nat.add_comm]

theorem checkBlock_of_wf {rn : Reg} {list : BitVec 16} (h : blockWf rn list = true) (k : Result) :
    checkBlock rn list k = k := by
  obtain ⟨hn, hl⟩ : rn ≠ 15#4 ∧ list ≠ 0#16 := by simpa [blockWf, Reg.notPc_iff] using h
  exact checkBlock_allowed hn hl

theorem blockWf_setWidth {n : Nat} (hn : n ≤ 16) {rn : Reg} {list : BitVec n} (h : blockWf rn list = true) :
    blockWf rn (list.setWidth 16) = true := by
  rw [← place_zero_eq_setWidth]
  simpa [blockWf, place_zero_eq_zero_iff hn] using h

theorem setWidth_ne_zero {list : BitVec 8} (h : (list != 0) = true) : list.setWidth 16 ≠ 0#16 := by
  rw [← place_zero_eq_setWidth]
  exact mt (place_zero_eq_zero_iff (by decide) list).mp (bne_iff_ne.mp h)

/-! ## The block of a view -/

/-- The machine's own form of a view: all but the bank of its list and its instruction's bytes. -/
def BlockView.block (b : BlockView) : Block := ⟨b.base, b.start, b.newBase, b.wb, b.list⟩

/-- The addresses of R312 are those of `blockOf`. -/
theorem blockOf_eq_armBlockView (s : State) (bank : Mode) (pre up wb : Bool) (rn : Reg) (list : BitVec 16) :
    blockOf pre up wb rn list (s.reg rn 8) = (armBlockView s bank pre up wb rn list).block := by
  simp only [blockOf, fourTimes, listed_length]
  cases pre <;> cases up <;> rfl

/-- PUSH counts down to its lowest address (spec/49_thumb_memory_branch.md R494). -/
theorem blockOf_decrementBefore (wb : Bool) (rn : Reg) (list : BitVec 16) (base : Word) :
    blockOf true false wb rn list base =
      ⟨rn, base - BitVec.ofNat 32 (4 * rank list 16), base - BitVec.ofNat 32 (4 * rank list 16), wb, list⟩ := by
  rw [blockOf, fourTimes, listed_length]
  rfl

/-- POP, LDMIA and STMIA count up from the base (spec/49_thumb_memory_branch.md R495, R501, R502). -/
theorem blockOf_incrementAfter (wb : Bool) (rn : Reg) (list : BitVec 16) (base : Word) :
    blockOf false true wb rn list base = ⟨rn, base, base + BitVec.ofNat 32 (4 * rank list 16), wb, list⟩ := by
  rw [blockOf, fourTimes, listed_length]
  rfl

/-! ## The stores -/

section Forms

variable {b : BlockView} {i : Instr} {s : State}

/-- STM, STM^, PUSH and STMIA, condition passed and operands allowed, are the one store of their view (R314, R318,
R494, R501). -/
theorem exec_storeView (hwf : i.wellFormed = true) (hc : condHolds i s) (hv : storeView s i = some b) :
    exec i s = s.storeBlock b.bank b.size b.block := by
  cases i with
  | stm c pre up wb rn list =>
    cases hv
    rw [← blockOf_eq_armBlockView]
    simp only [exec, execStm, conditional_pass (hc c rfl), checkBlock_of_wf hwf]
    rfl
  | stmS c pre up wb rn list =>
    cases hv
    obtain ⟨hblock, hwb⟩ := Bool.and_eq_true_iff.mp hwf
    obtain rfl : wb = false := by simpa using hwb
    rw [← blockOf_eq_armBlockView]
    simp only [exec, execStmS, conditional_pass (hc c rfl), checkBlock_of_wf hblock]
    rfl
  | tPush lr list =>
    cases hv
    have hfull : stackList 14 lr list = BitVec.ofNat 16 (list.toNat + 2 ^ 14 * lr.toNat) :=
      placeBit_or_place_eq_ofNat (by decide) (by decide) lr list
    have hne := stackList_ne_zero (.inl rfl) hwf
    rw [hfull] at hne
    simp only [exec, execTPush, hfull, refuseIf_ne hne, blockOf_decrementBefore]
    rfl
  | tStmia rb list =>
    cases hv
    simp only [exec, execTStmia, place_zero_eq_setWidth, refuseIf_ne (setWidth_ne_zero hwf), blockOf_incrementAfter]
    rfl
  | _ => cases hv

/-! ## The loads -/

/-- The mark of R620 that the instruction sets before its transfer (spec/70_reset_and_hazards.md R620; log 11). -/
def State.marked (s : State) (i : Instr) : State := { s with userLdm := s.userLdm || marksUserLdm i }

theorem State.marked_of_not_marks (h : marksUserLdm i = false) : s.marked i = s := by
  rw [State.marked, h, Bool.or_false]

theorem State.marked_of_marks (h : marksUserLdm i = true) : s.marked i = s.markUserLdm := by
  rw [State.marked, h, Bool.or_true, State.markUserLdm]

theorem marksUserLdm_iff :
    marksUserLdm i = true ↔
      ∃ (c : Cond) (pre up wb : Bool) (rn : Reg) (l : BitVec 15), i = .ldmUserS c pre up wb rn l := by
  constructor
  · intro h
    cases i with
    | ldmUserS c pre up wb rn l => exact ⟨c, pre, up, wb, rn, l, rfl⟩
    | _ => cases h
  · rintro ⟨c, pre, up, wb, rn, l, rfl⟩
    rfl

/-- LDM, LDM^ without R15, POP and LDMIA: one load, that ends by one rule (R315, R318, R495, R502). -/
structure LoadsAs (i : Instr) (s : State) (b : BlockView) : Prop where
  exec : exec i s = (s.marked i).loadBlock b.bank b.block (finishLoad b.list b.size (alignPc (b.size == 2)))
  bank : b.wb = true → b.bank = s.cpsr.mode
  size : b.size = 4 ∨ b.size = 2
  mark : marksUserLdm i = true → b.list.getLsbD 15 = false

theorem exec_loadView (hwf : i.wellFormed = true) (hc : condHolds i s) (hv : loadView s i = some b) :
    LoadsAs i s b := by
  cases i with
  | ldm c pre up wb rn list =>
    cases hv
    refine ⟨?_, fun _ => rfl, .inl rfl, nofun⟩
    rw [State.marked_of_not_marks rfl, ← blockOf_eq_armBlockView]
    simp only [Machine.exec, execLdm, conditional_pass (hc c rfl), checkBlock_of_wf hwf]
    rfl
  | ldmUserS c pre up wb rn list =>
    cases hv
    have hshort : (list.setWidth 16).getLsbD 15 = false := by simp
    refine ⟨?_, nofun, .inl rfl, fun _ => hshort⟩
    obtain ⟨hblock, hwb⟩ := Bool.and_eq_true_iff.mp hwf
    obtain rfl : wb = false := by simpa using hwb
    have hend (size : Word) (align : Word → Word) :
        finishLoad (list.setWidth 16) size align = fun _ u => .next (u.advance size) := by
      funext last u
      rw [finishLoad, hshort, if_neg (by decide)]
    rw [State.marked_of_marks rfl, ← blockOf_eq_armBlockView]
    simp only [Machine.exec, execLdmUserS, conditional_pass (hc c rfl), place_zero_eq_setWidth,
      checkBlock_of_wf (blockWf_setWidth (by decide) hblock), armBlockView, hend]
    rfl
  | tPop pc list =>
    cases hv
    refine ⟨?_, fun _ => rfl, .inr rfl, nofun⟩
    have hfull : stackList 15 pc list = BitVec.ofNat 16 (list.toNat + 2 ^ 15 * pc.toNat) :=
      placeBit_or_place_eq_ofNat (by decide) (by decide) pc list
    rw [State.marked_of_not_marks rfl]
    have hne := stackList_ne_zero (.inr rfl) hwf
    rw [hfull] at hne
    simp only [Machine.exec, execTPop, hfull, refuseIf_ne hne, blockOf_incrementAfter]
    rfl
  | tLdmia rb list =>
    cases hv
    refine ⟨?_, fun _ => rfl, .inr rfl, nofun⟩
    rw [State.marked_of_not_marks rfl]
    simp only [Machine.exec, execTLdmia, place_zero_eq_setWidth, refuseIf_ne (setWidth_ne_zero hwf),
      blockOf_incrementAfter]
    rfl
  | _ => cases hv

/-- LDM^ with R15, condition passed and in a mode with an SPSR (R317). -/
theorem exec_ldmPcS_pass {c : Cond} {pre up wb : Bool} {rn : Reg} {list : BitVec 15} {p : Psr}
    (hc : condPassed c s.cpsr.flags = true) (hn : rn ≠ 15#4) (hp : s.spsrs.get? s.cpsr.mode = some p) :
    exec (.ldmPcS c pre up wb rn list) s =
      s.loadBlock s.cpsr.mode
        (armBlockView s s.cpsr.mode pre up wb rn (BitVec.ofNat 16 (list.toNat + 2 ^ 15))).block
        fun last u => u.exceptionReturn last := by
  have hfull : place 16 15 1#1 ||| place 16 0 list = BitVec.ofNat 16 (list.toNat + 2 ^ 15) :=
    placeBit_or_place_eq_ofNat (le_refl 15) (by decide) true list
  rw [← hfull, ← blockOf_eq_armBlockView]
  simp only [exec, execLdmPcS, conditional_pass hc, refuseIf_ne hn, hp, Option.some_beq_none, refuseIf_false]

end Forms

end Sys2Proof.Machine
end

section
/-! PROOFS. What a block transfer leaves when every word of it reaches RAM: its words at their addresses, the base, the
listed registers (spec/46_arm_block_transfer.md R312 to R319). -/

namespace Sys2Proof.Machine

section Transfer

variable {b : BlockView} {s u : State}

/-! ## The words of a transfer -/

/-- Every place in a list is that of a listed register. -/
theorem exists_listed_of_lt_length {list : BitVec 16} {k : Nat} (hk : k < (listed list).length) :
    ∃ i : Reg, list.getLsbD i.toNat = true ∧ rank list i.toNat = k := by
  have hi : list.getLsbD (listed list)[k].toNat = true := mem_listed.mp (List.getElem_mem hk)
  have hplace : (listed list)[rank list (listed list)[k].toNat]? = (listed list)[k]? := by
    rw [listed_getElem list _ hi, List.getElem?_eq_getElem hk]
  have hlt := rank_lt list _ hi
  rw [← listed_length] at hlt
  exact ⟨_, hi, (List.getElem?_inj hlt (listed_nodup list)).mp hplace⟩

/-- What holds of the address of every listed register holds of every address of the run. -/
theorem BlockView.forall_wordAddress {P : Word → Prop}
    (h : ∀ i : Nat, i < 16 → b.list.getLsbD i = true → P (b.address i)) (k : Nat) (hk : k < (listed b.list).length) :
    P (wordAddress b.start k) := by
  obtain ⟨i, hi, rfl⟩ := exists_listed_of_lt_length hk
  exact h i.toNat i.isLt hi

/-- Every word of the run reaches RAM. -/
theorem BlockView.ram.words {kind : AccessKind} (h : b.ram s kind) (k : Nat) (hk : k < (listed b.list).length) :
    ReachesRam s kind s.userMode (wordAddress b.start k) (wordAddress b.start k) .word :=
  BlockView.forall_wordAddress (P := fun a => ReachesRam s kind s.userMode a a .word) h k hk

theorem SameRest.blockBase {k : Block} (h : SameRest s u) : SameRest s (u.blockBase k) := by
  unfold State.blockBase
  split
  · exact h.setReg
  · exact h

/-! ## Stores -/

/-- The value that STM stores for a listed register (R316, R319). -/
theorem BlockView.blockValue_eq {r : Reg} (hr : b.list.getLsbD r.toNat = true) :
    s.blockValue b.bank b.block r = b.stored s r := by
  have hfirst : r = b.base → ((listed b.list).head? ≠ some b.base ↔ rank b.list r.toNat ≠ 0) := by
    intro hbase
    rw [← hbase]
    exact not_congr (listed_head b.list r hr)
  exact if_congr (and_congr_right fun _ => and_congr_right hfirst) rfl rfl

/-- The words that a block store sends to memory, lowest register first. -/
def BlockView.storedWords (b : BlockView) (s : State) : List Word := (listed b.list).map (s.blockValue b.bank b.block)

theorem BlockView.storedWords_getElem {r : Reg} (hr : b.list.getLsbD r.toNat = true) :
    (b.storedWords s)[rank b.list r.toNat]? = some (b.stored s r) := by
  rw [storedWords, List.getElem?_map, listed_getElem b.list r hr, Option.map_some, blockValue_eq hr]

theorem BlockView.storedWords_length : (b.storedWords s).length = (listed b.list).length := List.length_map _

theorem StoredRun.sameRest {addr : Word} {vs : List Word} (h : StoredRun s u addr vs) : SameRest s u :=
  ⟨h.quiet.spsrs, h.quiet.platform, h.quiet.inputs, h.deviceLog, h.coprocLog, h.userLdm⟩

/-- What a block store leaves (R314, R316, R319). -/
structure BlockView.Stores (b : BlockView) (s t : State) : Prop where
  holds : ∀ r : Reg, b.list.getLsbD r.toNat = true → Holds t (b.address r.toNat) .word (b.stored s r)
  outside : ∀ a : Nat, (∀ k : Nat, k < 16 → b.list.getLsbD k = true →
    a < (b.address k).toNat ∨ (b.address k).toNat + 4 ≤ a) → t.mem.get a = s.mem.get a
  base : WritesBase s t b.base b.wb b.newBase
  cpsr : t.cpsr = s.cpsr
  pc : t.pc = s.pc + b.size
  rest : SameRest s t

/-- A run of stores, the base and the advance after it. -/
theorem StoredRun.stores (hrun : StoredRun s u b.start (b.storedWords s)) (hwf : s.mem.wf = true) :
    b.Stores s ((u.blockBase b.block).advance b.size) where
  holds r hr := by
    have hlength : (b.storedWords s).length ≤ rank b.list r.toNat + 2 ^ 30 := by
      have := rank_le b.list
      rw [BlockView.storedWords_length, listed_length]
      omega
    intro j hj
    rw [State.advance_mem, State.blockBase_mem]
    exact hrun.holds hwf _ _ hlength (BlockView.storedWords_getElem hr) j hj
  outside a ha := by
    rw [State.advance_mem, State.blockBase_mem]
    refine hrun.outside a fun k hk => ?_
    rw [BlockView.storedWords_length] at hk
    exact b.forall_wordAddress (P := fun w => a < w.toNat ∨ w.toNat + 4 ≤ a) ha k hk
  base g := by
    rw [State.advance_regs, State.blockBase_get, hrun.regs, hrun.quiet.cpsr]
    rfl
  cpsr := by simp [hrun.quiet.cpsr]
  pc := by simp [hrun.quiet.pc]
  rest := hrun.sameRest.blockBase.advance

/-- A block store to RAM. -/
theorem State.storeBlock_ram (hwf : s.mem.wf = true) (hram : b.ram s .write) :
    ∃ t : State, s.storeBlock b.bank b.size b.block = .next t ∧ b.Stores s t := by
  obtain ⟨hdone, hrun⟩ := State.storeWords_ram s.userMode (b.storedWords s) s b.start fun k hk =>
    hram.words k (BlockView.storedWords_length ▸ hk)
  refine ⟨_, ?_, hrun.stores hwf⟩
  have hwords : s.storeWords s.userMode b.block.start ((listed b.block.list).map (s.blockValue b.bank b.block)) =
      (false, (s.storeWords s.userMode b.start (b.storedWords s)).2) := Prod.ext hdone rfl
  rw [State.storeBlock, hwords]

/-! ## Loads -/

/-- The words that a block load reads, lowest register first. -/
def BlockView.loadedWords (b : BlockView) (s : State) : List Word :=
  (List.range (listed b.list).length).map fun k => s.mem.read (wordAddress b.start k) .word

theorem BlockView.loadedWords_getElem {i : Reg} (hi : b.list.getLsbD i.toNat = true) :
    (b.loadedWords s)[rank b.list i.toNat]? = some (s.mem.read (b.address i.toNat) .word) := by
  rw [loadedWords, List.getElem?_map, List.getElem?_range (by rw [listed_length]; exact rank_lt b.list i hi)]
  rfl

/-- R15 is the last register of a list that names it. -/
theorem BlockView.loadedWords_last (h : b.list.getLsbD 15 = true) :
    (b.loadedWords s).getLastD 0 = s.mem.read (b.address 15) .word := by
  have hlength : (listed b.list).length = rank b.list 15 + 1 := by
    rw [listed_length, rank, List.range_succ, List.filter_append]
    simp [rank, h]
  rw [loadedWords, hlength, List.range_succ, List.map_append]
  exact List.getLastD_concat ..

/-- Each register after a completed load. -/
theorem State.endLoad_get (s : State) (m : Mode) (k : Block) (words : List Word) (g : GReg) :
    (s.endLoad m k words).regs.get g =
      if k.list.getLsbD k.base.toNat = false ∧ k.writeBack = true ∧ physical s.cpsr.mode k.base = some g then k.newBase
      else (s.setRegsIn m (listed k.list) words).regs.get g := by
  unfold State.endLoad
  dsimp only
  split
  case isTrue h => simp [h]
  case isFalse h => simp [h, State.blockBase_get]

@[simp] theorem State.endLoad_pc (s : State) (m : Mode) (k : Block) (words : List Word) :
    (s.endLoad m k words).pc = s.pc := by
  unfold State.endLoad
  dsimp only
  split <;> simp
@[simp] theorem State.endLoad_cpsr (s : State) (m : Mode) (k : Block) (words : List Word) :
    (s.endLoad m k words).cpsr = s.cpsr := by
  unfold State.endLoad
  dsimp only
  split <;> simp
@[simp] theorem State.endLoad_mem (s : State) (m : Mode) (k : Block) (words : List Word) :
    (s.endLoad m k words).mem = s.mem := by
  unfold State.endLoad
  dsimp only
  split <;> simp

theorem State.endLoad_rest (s : State) (m : Mode) (k : Block) (words : List Word) :
    SameRest s (s.endLoad m k words) := by
  have hregs := State.setRegsIn_rest m (listed k.list) words s
  unfold State.endLoad
  dsimp only
  split
  · exact hregs
  · exact hregs.blockBase

/-- What a completed block load leaves, up to its end: the registers, and the PC still the instruction's own (R315,
R319). -/
structure BlockView.Loads (b : BlockView) (s u : State) : Prop where
  regs : b.loadedRegs s u
  pc : u.pc = s.pc
  cpsr : u.cpsr = s.cpsr
  mem : u.mem = s.mem
  rest : SameRest s u

/-- The registers after a completed load; a base that is written back is one of the bank of the list, so that it is no
register of the list that it does not name. -/
theorem BlockView.endLoad_loadedRegs (hbank : b.wb = true → b.bank = s.cpsr.mode) :
    b.loadedRegs s (s.endLoad b.bank b.block (b.loadedWords s)) := by
  obtain ⟨hlisted, hframe⟩ := State.setRegsIn_get b.bank (listed b.list) (b.loadedWords s) s (listed_nodup b.list)
    (by simp [loadedWords])
  refine ⟨fun i g hpc hi hg => ?listed, fun g hwb hbase hg => ?base, fun g hnone hwb => ?frame⟩ <;>
    rw [State.endLoad_get]
  case listed =>
    rw [if_neg]
    · exact hlisted _ i _ g (listed_getElem b.list i hi) (loadedWords_getElem hi) hg
    · rintro ⟨hbase, hwb, hphys⟩
      rw [← hbank hwb] at hphys
      have hsame : i = b.base := physical_injective (hg.trans hphys.symm) hpc
      rw [hsame] at hi
      exact absurd (hi.symm.trans hbase) (by decide)
  case base => exact if_pos ⟨hbase, hwb, hg⟩
  case frame =>
    rw [if_neg fun ⟨_, hwb', hphys⟩ => hwb hwb' hphys]
    exact hframe g fun i hi => hnone i (mem_listed.mp hi)

theorem BlockView.endLoad_loads (hbank : b.wb = true → b.bank = s.cpsr.mode) :
    b.Loads s (s.endLoad b.bank b.block (b.loadedWords s)) :=
  ⟨b.endLoad_loadedRegs hbank, by simp, by simp, by simp, State.endLoad_rest s b.bank b.block _⟩

/-- A block load of RAM goes on to its end with the last word (R315). -/
theorem State.loadBlock_ram (hram : b.ram s .read) (hbank : b.wb = true → b.bank = s.cpsr.mode)
    (finish : Word → State → Result) :
    ∃ u : State, s.loadBlock b.bank b.block finish = finish ((b.loadedWords s).getLastD 0) u ∧ b.Loads s u := by
  refine ⟨_, ?_, b.endLoad_loads hbank⟩
  have hrun : s.loadWords s.userMode b.block.start (listed b.block.list).length = ⟨b.loadedWords s, false, s⟩ :=
    State.loadWords_ram s.userMode _ s b.start hram.words
  simp only [State.loadBlock, hrun, Bool.false_eq_true, if_false]

/-! ## The end of a load -/

variable {list : BitVec 16} {size last : Word} {align : Word → Word}

theorem finishLoad_next (h : list.getLsbD 15 = false) : finishLoad list size align last u = .next (u.advance size) := by
  rw [finishLoad, h, if_neg Bool.false_ne_true]

theorem finishLoad_branch (h : list.getLsbD 15 = true) :
    finishLoad list size align last u = .next (u.branchTo (align last)) := if_pos h

/-- The PC is aligned by the instruction's own size (R315, spec/49_thumb_memory_branch.md R495). -/
theorem alignPc_size_toNat (h : size = 4 ∨ size = 2) (v : Word) :
    (alignPc (size == 2) v).toNat = v.toNat / size.toNat * size.toNat := by
  rw [alignPc_toNat]
  rcases h with rfl | rfl <;> rfl

/-- The list of LDM^ with R15 names R15 (R317). -/
theorem getLsbD_last_ofNat (short : BitVec 15) : (BitVec.ofNat 16 (short.toNat + 2 ^ 15)).getLsbD 15 = true := by
  have hlt := short.isLt
  rw [BitVec.getLsbD_ofNat, Nat.add_comm, Nat.testBit_two_pow_add_eq, Nat.testBit_lt_two_pow hlt]
  rfl

end Transfer

/-! ## The statements -/

/-- Settles O44: every form is the one store of its view (`exec_storeView`). -/
theorem storeMultiple : Obligations.StoreMultiple := by
  intro i b s hi hc hv hwf hram
  obtain ⟨t, hstore, h⟩ := State.storeBlock_ram hwf hram
  exact ⟨t, (exec_storeView hi hc hv).trans hstore, h.holds, h.outside, h.base, h.cpsr, h.pc, h.rest⟩

/-- Settles O45: every form is the one load of its view (`exec_loadView`), which goes on to the next instruction. -/
theorem loadMultiple : Obligations.LoadMultiple := by
  intro i b s hi hc hv hpc hram
  have hload := exec_loadView hi hc hv
  obtain ⟨u, hend, hu⟩ :=
    State.loadBlock_ram (s := s.marked i) hram hload.bank (finishLoad b.list b.size (alignPc (b.size == 2)))
  obtain ⟨hspsrs, hplatform, -, -, -, hmark⟩ := hu.rest
  rw [finishLoad_next hpc] at hend
  refine ⟨_, hload.exec.trans hend, hu.regs, hu.cpsr, congrArg (· + b.size) hu.pc,
    fun a => congrArg (Memory.get · a) hu.mem, hspsrs, hplatform, fun h => ?_, fun h => ?_⟩
  · rwa [State.marked_of_marks (marksUserLdm_iff.mpr h)] at hmark
  · have hnot : marksUserLdm i = false := Bool.eq_false_iff.mpr fun hmarks => by
      obtain ⟨c, pre, up, wb, rn, l, rfl⟩ := marksUserLdm_iff.mp hmarks
      exact h c pre up wb rn l rfl
    rwa [State.marked_of_not_marks hnot] at hmark

/-- Settles O46: the same load goes on to the word of R15, rounded down; LDM^ is not among these forms. -/
theorem loadMultipleToPc : Obligations.LoadMultipleToPc := by
  intro i b s hi hc hv hpc hram
  have hload := exec_loadView hi hc hv
  have hnot : marksUserLdm i = false :=
    Bool.eq_false_iff.mpr fun hmarks => Bool.false_ne_true ((hload.mark hmarks).symm.trans hpc)
  have hexec := hload.exec
  rw [State.marked_of_not_marks hnot] at hexec
  obtain ⟨u, hend, hu⟩ := State.loadBlock_ram hram hload.bank (finishLoad b.list b.size (alignPc (b.size == 2)))
  rw [finishLoad_branch hpc, b.loadedWords_last hpc] at hend
  exact ⟨_, hexec.trans hend, hu.regs, hu.cpsr, alignPc_size_toNat hload.size _,
    fun a => congrArg (Memory.get · a) hu.mem, hu.rest.branchTo _⟩

/-- Settles O47: the load ends in the return from an exception, in the mode whose SPSR is read (R570). -/
theorem ldmExceptionReturn : Obligations.LdmExceptionReturn := by
  intro c pre up wb rn list s p m hc hn hp hm full b hram
  have hpc : b.list.getLsbD 15 = true := getLsbD_last_ofNat list
  obtain ⟨u, hend, hu⟩ := State.loadBlock_ram hram (fun _ => rfl) fun last v => v.exceptionReturn last
  obtain ⟨hspsrs, -⟩ := hu.rest
  have hpu : u.spsrs.get? u.cpsr.mode = some p := by rw [hu.cpsr, hspsrs, hp]
  rw [State.exceptionReturn_of_spsr hpu hm, b.loadedWords_last hpc] at hend
  refine ⟨_, (exec_ldmPcS_pass hc hn hp).trans hend, hu.regs, rfl, ?_, fun a => congrArg (Memory.get · a) hu.mem,
    hu.rest⟩
  rw [State.branchTo_pc, alignPc]
  split <;> rfl

end Sys2Proof.Machine
end

section
/-! PROOFS. SWP and SWPB (spec/47_arm_swap_coproc.md R340 to R342): the swap of RAM is the read of a load and the write
of a store at one address. -/

namespace Sys2Proof.Machine

/-! ## What a swap of RAM leaves -/

section Swap

variable {op : SingleOp} {k : LoadKind} {st : StoreKind} {s : State} {rn rd rm : Reg}

/-- The read and the write of a swap, by the load that reads alike: SWP a word, SWPB a byte (R341, R342). -/
inductive SingleOp.Swaps : SingleOp → LoadKind → StoreKind → Prop where
  | swp : Swaps .ldr .word .word
  | swpb : Swaps .ldrb .byte .byte

theorem SingleOp.Swaps.loads (h : op.Swaps k st) : op.Loads k := by
  cases h
  exacts [.ldr, .ldrb]

theorem SingleOp.Swaps.width_eq (h : op.Swaps k st) : st.width = op.width := by cases h <;> rfl

theorem SingleOp.Swaps.address_eq (h : op.Swaps k st) (ea : Word) : st.address ea = op.address ea := by
  cases h <;> rfl

theorem SingleOp.room (op : SingleOp) (ea : Word) : (op.address ea).toNat + widthBytes op.width ≤ 2 ^ 32 := by
  cases op with
  | ldr | str => exact StoreKind.room .word ea
  | ldrb | strb => exact StoreKind.room .byte ea

theorem State.put_holds {addr : Word} {w : Width} {v : Word} (hwf : s.mem.wf = true)
    (hroom : addr.toNat + widthBytes w ≤ 2 ^ 32) (h : s.isDevice addr = false) : Holds (s.put addr w v) addr w v := by
  intro j hj
  rw [State.put_mem h]
  exact Memory.get_write_inside hwf v hroom hj

theorem State.put_sameMemoryOutside {addr : Word} {w : Width} {v : Word} (h : s.isDevice addr = false) :
    SameMemoryOutside s (s.put addr w v) addr.toNat (widthBytes w) := by
  intro b hb
  rw [State.put_mem h]
  exact Memory.get_write_other s.mem addr w v b hb

/-- Neither access aborts: the old Rm is stored before Rd is written (R340, R341). -/
theorem State.swap_ram (hop : op.Swaps k st) (hrn : rn ≠ 15#4) (hrd : rd ≠ 15#4) (hrm : rm ≠ 15#4)
    (hread : ReachesRam s .read s.userMode (s.reg rn 8) (op.address (s.reg rn 8)) op.width)
    (hwrite : ReachesRam s .write s.userMode (s.reg rn 8) (op.address (s.reg rn 8)) op.width) :
    s.swap k st rn rd rm =
      .next (((s.put (op.address (s.reg rn 8)) op.width (s.reg rm 8)).setReg rd
        (op.loaded s (s.reg rn 8))).advance 4) := by
  have hallowed : (rn == 15#4 || rd == 15#4 || rm == 15#4) = false := by simp [hrn, hrd, hrm]
  rw [← hop.loads.deliver_eq, State.swap, hallowed, refuseIf_false]
  simp only [hop.loads.address_eq, hop.loads.width_eq, hop.address_eq, hop.width_eq, State.busRead_ram hread,
    State.busWrite_ram hwrite]

theorem exec_swaps {c : Cond} {i : Instr} (hc : condPassed c s.cpsr.flags = true)
    (h : op = .ldr ∧ i = .swp c rn rd rm ∨ op = .ldrb ∧ i = .swpb c rn rd rm) :
    ∃ (k : LoadKind) (st : StoreKind), op.Swaps k st ∧ exec i s = s.swap k st rn rd rm := by
  rcases h with ⟨rfl, rfl⟩ | ⟨rfl, rfl⟩
  · exact ⟨_, _, .swp, by simp only [exec, execSwp, conditional_pass hc]⟩
  · exact ⟨_, _, .swpb, by simp only [exec, execSwpb, conditional_pass hc]⟩

end Swap

/-! ## The statement -/

/-- Settles O48: both instructions are the one swap of RAM (`State.swap_ram`). -/
theorem swap : Obligations.Swap := by
  intro c rn rd rm s hc hrn hrd hrm hwf op i hi hread hwrite
  obtain ⟨k, st, hop, hexec⟩ := exec_swaps hc hi
  refine ⟨_, hexec.trans (State.swap_ram hop hrn hrd hrm hread hwrite), fun g => ?reg, fun j hj => ?holds,
    fun b hb => ?outside, ?cpsr, ?pc, (State.put_sameRest hwrite.2).setReg.advance⟩
  case reg => simp [State.setReg_get]
  case holds =>
    rw [State.advance_mem, State.setReg_mem]
    exact State.put_holds hwf (op.room _) hwrite.2 j hj
  case outside =>
    rw [State.advance_mem, State.setReg_mem]
    exact State.put_sameMemoryOutside hwrite.2 b hb
  case cpsr | pc => simp

end Sys2Proof.Machine
end

section
/-! PROOFS. The coprocessor instructions with their coprocessor attached (spec/47_arm_swap_coproc.md R351 to R356): what
is sent and received, and a run of words that all reach RAM. -/

namespace Sys2Proof.Machine

section Coprocessor

variable {c : Cond} {pre up long wb : Bool} {rn rd : Reg} {cd p : BitVec 4} {off : BitVec 8} {s u : State}

/-! ## Registers -/

/-- R15 alone is read by how far ahead it stands (spec/10_state.md R28). -/
theorem State.reg_eq_ite (s : State) (i : Reg) (a : Word) :
    s.reg i a = if i = 15#4 then s.pc + a else s.reg i 0 := by
  split
  case isTrue h => rw [h, State.reg_r15]
  case isFalse h =>
    obtain ⟨g, hg⟩ := physical_some (m := s.cpsr.mode) h
    rw [State.reg_eq hg, State.reg_eq hg]

/-- A write to R15 as a general register changes none. -/
theorem WritesReg.of_r15 (h : SameRegs s u) (v : Word) : WritesReg s u 15#4 v := by
  intro g
  rw [physical_r15, if_neg (Option.some_ne_none g).symm, h g]

/-- What a coprocessor is sent is noted, whatever else was the same before. -/
theorem SameRest.tell (h : SameRest s u) (e : CoprocEvent) : SameRest (s.tell e) (u.tell e) := by
  obtain ⟨hspsrs, hplatform, hinputs, hdevices, hcoproc, hmark⟩ := h
  exact ⟨hspsrs, hplatform, hinputs, hdevices, congrArg (e :: ·) hcoproc, hmark⟩

/-- What MRC leaves: the answer in the flags with R15, else in Rd (R352). -/
structure MrcEnds (s t : State) (e : CoprocEvent) (rd : Reg) (v : Word) : Prop where
  reg : WritesReg s t rd v
  cpsr : t.cpsr = { s.cpsr with flags := if rd = 15#4 then Nzcv.ofWord v else s.cpsr.flags }
  pc : t.pc = s.pc + 4
  mem : SameMemory s t
  rest : SameRest (s.tell e) t

theorem execMrc_ends {op : CoprocRegOp} (hc : condPassed c s.cpsr.flags = true) (hp : p ∈ s.platform.coprocs) :
    ∃ t : State, execMrc c p op rd s = .next t ∧
      MrcEnds s t (.mrc p op) rd (Config.coprocMrc s.coprocLog p op) := by
  refine ⟨_, coprocessor_present hc hp, ?_⟩
  have rest := (SameRest.refl s).tell (.mrc p op)
  by_cases hd : rd = 15#4
  · subst hd
    exact ⟨.of_r15 (fun _ => rfl) _, rfl, rfl, fun _ => rfl, rest⟩
  · simp only [if_neg hd]
    exact ⟨fun g => State.setReg_get .., by simp [hd], by simp, fun a => by simp, rest.setReg.advance⟩

theorem exec_mcr_pass {op : CoprocRegOp} (hc : condPassed c s.cpsr.flags = true) (hp : p ∈ s.platform.coprocs) :
    exec (.mcr c p op rd) s = .next ((s.tell (.mcr p op (s.reg rd 12))).advance 4) := by
  simp only [exec, execMcr, coprocessor_present hc hp]

theorem exec_cdp_pass {o4 cn cm : BitVec 4} {cp : BitVec 3} (hc : condPassed c s.cpsr.flags = true)
    (hp : p ∈ s.platform.coprocs) :
    exec (.cdp c p o4 cd cn cm cp) s = .next ((s.tell (.cdp p o4 cd cn cm cp)).advance 4) := by
  simp only [exec, execCdp, coprocessor_present hc hp]

/-! ## Memory transfers -/

/-- `ea`, and `idx` where the form writes it back (R355). The k-th `wordAddress` of this `ea` is, as it is defined,
`coprocAddress`. -/
def coprocTransfer (pre up wb : Bool) (rn : Reg) (off : BitVec 8) (s : State) : Addressing :=
  ⟨if pre then coprocIdx up rn off s else s.reg rn 8, if wb then some (coprocIdx up rn off s) else none⟩

theorem zext_mul_four (off : BitVec 8) : zext off * 4 = BitVec.ofNat 32 (off.toNat * 4) := by
  apply BitVec.eq_of_toNat_eq
  simp [zext]

theorem coprocAddressing_eq : coprocAddressing pre up wb (s.reg rn 8) off = coprocTransfer pre up wb rn off s := by
  rw [coprocAddressing, zext_mul_four]
  rfl

theorem coprocWriteBack_allowed (h : wb = true → rn ≠ 15#4) (k : Result) :
    refuseIf (wb && rn == 15#4) .writebackR15 k = k := by
  cases wb with
  | false => rfl
  | true => exact refuseIf_ne (h rfl) _ k

theorem exec_ldc_pass (hc : condPassed c s.cpsr.flags = true) (hp : p ∈ s.platform.coprocs)
    (hwb : wb = true → rn ≠ 15#4) :
    exec (.ldc c pre up long wb rn cd p off) s = s.ldc long rn cd p (coprocTransfer pre up wb rn off s) := by
  simp only [exec, execLdc, coprocessor_present hc hp, coprocWriteBack_allowed hwb, coprocAddressing_eq]

theorem exec_stc_pass (hc : condPassed c s.cpsr.flags = true) (hp : p ∈ s.platform.coprocs)
    (hwb : wb = true → rn ≠ 15#4) :
    exec (.stc c pre up long wb rn cd p off) s = s.stc long rn cd p (coprocTransfer pre up wb rn off s) := by
  simp only [exec, execStc, coprocessor_present hc hp, coprocWriteBack_allowed hwb, coprocAddressing_eq]

/-- How LDC and STC end after their words: the transfer noted, the base written back, the next instruction (R355). -/
def State.endTransfer (u : State) (e : CoprocEvent) (rn : Reg) (a : Addressing) : State :=
  ((u.tell e).writeBack rn a).advance 4

@[simp] theorem State.endTransfer_mem (u : State) (e : CoprocEvent) (rn : Reg) (a : Addressing) :
    (u.endTransfer e rn a).mem = u.mem := State.writeBack_mem ..

/-- What LDC and STC leave beside memory, when their words leave the registers and everything outside memory alone. -/
structure TransferEnds (s t : State) (e : CoprocEvent) (rn : Reg) (wb : Bool) (idx : Word) : Prop where
  base : WritesBase s t rn wb idx
  cpsr : t.cpsr = s.cpsr
  pc : t.pc = s.pc + 4
  rest : SameRest (s.tell e) t

theorem State.endTransfer_ends (pre up wb : Bool) (rn : Reg) (off : BitVec 8) (e : CoprocEvent)
    (hregs : u.regs = s.regs) (hcpsr : u.cpsr = s.cpsr) (hpc : u.pc = s.pc) (hrest : SameRest s u) :
    TransferEnds s (u.endTransfer e rn (coprocTransfer pre up wb rn off s)) e rn wb (coprocIdx up rn off s) where
  base := by
    have base := (u.tell e).writeBack_writesBase rn wb (coprocTransfer pre up wb rn off s).ea (coprocIdx up rn off s)
    rw [WritesBase, State.tell_regs, State.tell_cpsr, hregs, hcpsr] at base
    exact base
  cpsr := by simp [State.endTransfer, hcpsr]
  pc := by simp [State.endTransfer, hpc]
  rest := (hrest.tell e).writeBack.advance

/-- LDC when each of its words reaches RAM (R355). -/
theorem State.ldc_ram {a : Addressing}
    (h : ∀ k : Nat, k < Config.coprocCount s.coprocLog p long cd →
      ReachesRam s .read s.userMode (wordAddress a.ea k) (wordAddress a.ea k) .word) :
    s.ldc long rn cd p a =
      .next (s.endTransfer (.ldc p long cd ((List.range (Config.coprocCount s.coprocLog p long cd)).map fun k =>
        s.mem.read (wordAddress a.ea k) .word)) rn a) := by
  simp only [State.ldc, State.loadWords_ram s.userMode _ s a.ea h, Bool.false_eq_true, if_false, State.endTransfer]

/-- The words that STC stores, in the order of their addresses (R356). -/
def coprocWords (s : State) (long : Bool) (cd p : BitVec 4) : List Word :=
  (List.range (Config.coprocCount s.coprocLog p long cd)).map (Config.coprocStc s.coprocLog p long cd)

theorem coprocWords_length : (coprocWords s long cd p).length = Config.coprocCount s.coprocLog p long cd := by
  rw [coprocWords, List.length_map, List.length_range]

theorem coprocWords_getElem {k : Nat} (hk : k < Config.coprocCount s.coprocLog p long cd) :
    (coprocWords s long cd p)[k]? = some (Config.coprocStc s.coprocLog p long cd k) := by
  rw [coprocWords, List.getElem?_map, List.getElem?_range hk, Option.map_some]

/-- STC when each of its words reaches RAM (R356). -/
theorem State.stc_ram {a : Addressing}
    (h : ∀ k : Nat, k < Config.coprocCount s.coprocLog p long cd →
      ReachesRam s .write s.userMode (wordAddress a.ea k) (wordAddress a.ea k) .word) :
    ∃ u : State, StoredRun s u a.ea (coprocWords s long cd p) ∧
      s.stc long rn cd p a =
        .next (u.endTransfer (.stc p long cd (Config.coprocCount s.coprocLog p long cd)) rn a) := by
  obtain ⟨hdone, hrun⟩ := State.storeWords_ram s.userMode (coprocWords s long cd p) s a.ea fun k hk =>
    h k (hk.trans_eq coprocWords_length)
  refine ⟨_, hrun, ?_⟩
  have hwords : s.storeWords s.userMode a.ea
      ((List.range (Config.coprocCount s.coprocLog p long cd)).map (Config.coprocStc s.coprocLog p long cd)) =
      (false, (s.storeWords s.userMode a.ea (coprocWords s long cd p)).2) := Prod.ext hdone rfl
  simp only [State.stc, hwords, State.endTransfer]

end Coprocessor

/-! ## The statements -/

/-- Settles O49: MRC by `execMrc_ends`; MCR and CDP only note what they send. -/
theorem coprocessorRegisters : Obligations.CoprocessorRegisters := by
  intro c p op rd o4 cd cn cm cp s hc hp
  refine ⟨?mrc, ?mcr, ?cdp⟩
  case mrc =>
    obtain ⟨t, hexec, h⟩ := execMrc_ends (rd := rd) (op := op) hc hp
    exact ⟨t, hexec, h.reg, h.cpsr, h.pc, h.mem, h.rest⟩
  case mcr =>
    rw [← s.reg_eq_ite rd 12]
    exact ⟨_, exec_mcr_pass hc hp, fun _ => rfl, rfl, rfl, fun _ => rfl, (SameRest.refl s).tell _⟩
  case cdp => exact ⟨_, exec_cdp_pass hc hp, fun _ => rfl, rfl, rfl, fun _ => rfl, (SameRest.refl s).tell _⟩

/-- Settles O50: the words are one run of loads or stores from `ea` (`State.ldc_ram`, `State.stc_ram`), and both
instructions end alike (`State.endTransfer_ends`). -/
theorem coprocessorMemory : Obligations.CoprocessorMemory := by
  intro c pre up long wb rn cd p off s hc hp hwb n address words
  refine ⟨fun hram => ?ldc, fun hram => ?stc⟩
  case ldc =>
    have h := State.endTransfer_ends pre up wb rn off (.ldc p long cd words) rfl rfl rfl (.refl s)
    exact ⟨_, (exec_ldc_pass hc hp hwb).trans (State.ldc_ram hram), h.base, h.cpsr, h.pc, fun a => by simp, h.rest⟩
  case stc =>
    obtain ⟨u, hrun, hstc⟩ := State.stc_ram (a := coprocTransfer pre up wb rn off s) (rn := rn) hram
    have h := State.endTransfer_ends pre up wb rn off (.stc p long cd n) hrun.regs hrun.quiet.cpsr hrun.quiet.pc
      hrun.sameRest
    refine ⟨_, (exec_stc_pass hc hp hwb).trans hstc, fun hwf k hk hlast j hj => ?holds, fun a ha => ?outside, h.base,
      h.cpsr, h.pc, h.rest⟩
    case holds =>
      rw [State.endTransfer_mem]
      exact hrun.holds hwf k _ (coprocWords_length.trans_le hlast) (coprocWords_getElem hk) j hj
    case outside =>
      rw [State.endTransfer_mem]
      exact hrun.outside a fun k hk => ha k (hk.trans_eq coprocWords_length)

end Sys2Proof.Machine
end

section
/-! PROOFS. User mode (spec/60_exceptions.md R575, R576): an instruction leaves the privileged state
alone, or enters one of its own exceptions. -/

namespace Sys2Proof.Machine

/-- What an entry from a state that differs quietly from a User mode state `s` leaves of the privileged state (R545,
R547). -/
theorem Quiet.enter_user {s u : State} {e : Exception} {r : Raised} (hq : Quiet s u) (hu : s.cpsr.mode = .usr)
    (mode : e.mode = r.mode) (vector : Config.vectorBase + e.offset = r.vector) (setsF : e.setsF = false) :
    (u.enter e).cpsr.mode = r.mode ∧ (u.enter e).pc = r.vector ∧ (u.enter e).cpsr.i = true ∧
      (u.enter e).cpsr.f = s.cpsr.f ∧ (u.enter e).cpsr.t = false ∧
      (u.enter e).spsrs.get? r.mode = some s.cpsr.saved ∧
      (∀ m : Mode, m ≠ r.mode → (u.enter e).spsrs.get? m = s.spsrs.get? m) ∧
      ∀ g : GReg, exceptionBanked g = true → g ≠ linkReg r.mode → (u.enter e).regs.get g = s.regs.get g := by
  obtain ⟨hregs, hspsrs, hcpsr, -⟩ := State.enter_entered (s := u) (e := e) rfl
  rw [hq.cpsr] at hcpsr hspsrs
  rw [hq.spsrs] at hspsrs
  rw [mode] at hregs hspsrs hcpsr
  refine ⟨by rw [hcpsr], vector, rfl, by rw [hcpsr, setsF, Bool.or_false], rfl, ?own, fun m hm => ?other,
    fun g hg hlink => ?reg⟩
  case own => rw [hspsrs, if_pos rfl]
  case other => rw [hspsrs, if_neg hm]
  case reg => rw [hregs, if_neg hlink, hq.banked hu g hg]

/-- Settles O22, by cases on what an instruction can do: User mode has no SPSR to return by, and MSR writes its flags
alone. -/
theorem userModeConfined : Obligations.UserModeConfined := by
  intro i s t hu hx
  cases exec_effect i s t hx with
  | proceed u n f quiet =>
    exact .inl ⟨by simp [quiet.cpsr, hu], by simp [quiet.cpsr], by simp [quiet.cpsr], quiet.spsrs, quiet.banked hu⟩
  | jump u target quiet =>
    exact .inl ⟨by simp [quiet.cpsr, hu], by simp [quiet.cpsr], by simp [quiet.cpsr], quiet.spsrs, quiet.banked hu⟩
  | trap u r e quiet mode vector setsF => exact .inr ⟨r, quiet.enter_user hu mode vector setsF⟩
  | restore u p m target quiet mem writesFlags spsr =>
    rw [hu] at spsr
    cases spsr
  | exchange => exact .inl ⟨hu, rfl, rfl, rfl, fun _ _ => rfl⟩
  | psr _ _ _ regs _ _ _ user =>
    obtain ⟨hmode, hi, hf, hspsrs⟩ := user hu
    exact .inl ⟨hmode, hi, hf, hspsrs, fun g _ => by rw [regs]⟩

end Sys2Proof.Machine
end

section
/-! PROOFS. The step at a boundary (spec/60_exceptions.md R560 to R570): reset, FIQ, IRQ and the Prefetch Abort are
entered, else the decoded instruction runs; and the returns that undo an entry. -/

namespace Sys2Proof.Machine

variable {s : State}

/-! ## Events -/

theorem step_of_reset (h : s.sample.reset = true) : step s = .next s.sampled.takeReset := by
  simp only [step, State.runStep, h, if_true]

theorem step_of_fiq (hr : s.sample.reset = false) (hq : s.sample.nFIQ = .low) (hf : s.cpsr.f = false) :
    step s = .next (s.sampled.enter .fiq) := by
  simp only [step, State.runStep, hr, hq, hf, and_self, if_true, Bool.false_eq_true, if_false]

/-- An IRQ is taken when no FIQ is (R563, R565). -/
theorem step_of_irq (hr : s.sample.reset = false) (hq : s.sample.nFIQ = .high ∨ s.cpsr.f = true)
    (hirq : s.sample.nIRQ = .low) (hi : s.cpsr.i = false) : step s = .next (s.sampled.enter .irq) := by
  have nofiq : ¬(s.sample.nFIQ = .low ∧ s.cpsr.f = false) := by
    rcases hq with h | h <;> simp [h]
  simp only [step, State.runStep, hr, nofiq, hirq, hi, and_self, if_true, Bool.false_eq_true, if_false]

/-- Entry at a boundary, the sample consumed: registers, SPSRs and memory are those of the state before (R545). -/
theorem State.sampled_enter_entered {e : Exception} {ret : Word} (hret : s.returnAddress e = ret) :
    Entered s (s.sampled.enter e) e.mode e.offset e.setsF ret := State.enter_entered (s := s.sampled) hret

/-- Settles O19: what `State.takeReset` leaves, the reset sample being looked at first. -/
theorem resetInput : Obligations.ResetInput :=
  fun _ hr => ⟨_, step_of_reset hr, rfl, rfl, rfl, rfl, by simp [State.takeReset, Exception.setsF], fun _ => rfl⟩

/-- Settles O10: each is the one entry, FIQ being looked at before IRQ. -/
theorem interruptEntry : Obligations.InterruptEntry :=
  fun _ hr => ⟨fun hq hf => ⟨_, step_of_fiq hr hq hf, State.sampled_enter_entered rfl⟩,
    fun hq hirq hi => ⟨_, step_of_irq hr hq hirq hi, State.sampled_enter_entered rfl⟩⟩

/-- An aborted fetch, whatever stands at pc (R551). -/
theorem runInstruction_of_aborts (hpc : pcAligned s)
    (ha : s.aborts .fetch s.userMode s.pc s.fetchWidth = true) :
    s.runInstruction = .next (s.enter .prefetchAbort) := by
  simp [State.runInstruction, (alignPc_pc_iff s).mpr hpc, ha]

/-- Settles O11: the fetch is tried before anything of the instruction is looked at. -/
theorem prefetchAbortEntry : Obligations.PrefetchAbortEntry := by
  intro s he hpc ha
  refine ⟨s.sampled.enter .prefetchAbort, ?_, State.sampled_enter_entered rfl⟩
  rw [step_of_noEvent he]
  exact runInstruction_of_aborts (s := s.sampled) hpc ha

/-! ## The decoded instruction -/

theorem byteOf_zext {n k : Nat} (v : BitVec n) (hk : 8 * k + 8 ≤ 32) : byteOf (zext v) k = byteOf v k :=
  BitVec.extractLsb'_setWidth_of_le hk

theorem byteOf_self (b : Byte) : byteOf b 0 = b := BitVec.extractLsb'_eq_self

/-- A halfword gives back its two bytes (spec/20_memory.md R61). -/
theorem byteOf_halfOfBytes (b0 b1 : Byte) : byteOf (halfOfBytes b0 b1) 0 = b0 ∧ byteOf (halfOfBytes b0 b1) 1 = b1 := by
  simp [byteOf, halfOfBytes, BitVec.extractLsb'_or]

/-- A word gives back its four bytes (spec/20_memory.md R61). -/
theorem byteOf_wordOfBytes (b0 b1 b2 b3 : Byte) :
    byteOf (wordOfBytes b0 b1 b2 b3) 0 = b0 ∧ byteOf (wordOfBytes b0 b1 b2 b3) 1 = b1 ∧
      byteOf (wordOfBytes b0 b1 b2 b3) 2 = b2 ∧ byteOf (wordOfBytes b0 b1 b2 b3) 3 = b3 := by
  simp [byteOf, wordOfBytes, BitVec.extractLsb'_or]

/-- The bytes of a value read are the bytes of memory (spec/20_memory.md R61). -/
theorem fetchedBytes_read (m : Memory) (a : Word) (w : Width) :
    fetchedBytes w (m.read a w) = (List.range (widthBytes w)).map fun k => m.get (a.toNat + k) := by
  cases w with
  | byte => simp [fetchedBytes, widthBytes, Memory.read, byteOf_zext, byteOf_self]
  | half => simp [fetchedBytes, widthBytes, Memory.read, byteOf_zext, byteOf_halfOfBytes, List.range_succ]
  | word => simp [fetchedBytes, widthBytes, Memory.read, byteOf_wordOfBytes, List.range_succ]

theorem fetchedBytes_eq_bytesAtPc (s : State) :
    fetchedBytes s.fetchWidth (s.mem.read s.pc s.fetchWidth) = bytesAtPc s := fetchedBytes_read _ _ _

/-- A word whose condition passes is decoded (R45, R566). -/
theorem State.runArm_pass {w : Word} {c : Cond} (hw : Cond.ofCode (w.extractLsb' 28 4) = some c)
    (hc : condPassed c s.cpsr.flags = true) : s.runArm w = s.runDecoded (decode false (fetchedBytes .word w)) := by
  simp [State.runArm, hw, hc]

/-- With no event and a fetchable instruction whose condition passes, the step runs what the bytes at pc decode to
(R566). -/
theorem step_of_decoded (he : noEvent s) (hf : fetchable s) (hc : conditionPasses s) :
    step s = s.sampled.runDecoded (decode s.cpsr.t (bytesAtPc s)) := by
  rw [← fetchedBytes_eq_bytesAtPc]
  cases ht : s.cpsr.t with
  | true =>
    rw [step_of_fetchable he hf]
    simp only [State.runFetched, State.sampled_cpsr, State.fetchWidth, ht, if_true]
  | false =>
    obtain ⟨c, hcode, hpass⟩ := hc ht
    rw [step_of_fetchable_arm he hf ht, State.runArm_pass (s := s.sampled) hcode hpass]
    simp only [State.fetchWidth, ht, Bool.false_eq_true, if_false]

theorem State.runDecoded_ok (i : Instr) :
    s.runDecoded (.ok i) = if s.bankHazard i then .refused .bankedReadAfterUserLdm else exec i s.executing := rfl

/-- Settles O4: the decoded instruction, no hazard standing in its way. -/
theorem stepRunsDecoded : Obligations.StepRunsDecoded := by
  intro s i he hf hd hc hb
  have hb' : s.sampled.bankHazard i = false := hb
  rw [step_of_decoded he hf hc, hd, State.runDecoded_ok, hb', if_neg Bool.false_ne_true]
  rfl

theorem bankedIn_of_bankedRegister {m : Mode} {r : Reg} (h : bankedRegister m r) : bankedIn m r = true := by
  unfold bankedRegister at h
  cases m <;> revert r <;> decide

/-- Settles O9: the decoded instruction meets the hazard. -/
theorem bankedReadAfterUserLdmRefused : Obligations.BankedReadAfterUserLdmRefused := by
  intro s i r he hf hd hc hmark hr hbank
  have hb : s.sampled.bankHazard i = true :=
    Bool.and_eq_true_iff.mpr ⟨hmark, List.any_eq_true.mpr ⟨r, hr, bankedIn_of_bankedRegister hbank⟩⟩
  rw [step_of_decoded he hf hc, hd, State.runDecoded_ok, hb, if_pos rfl]

/-! ## Returns -/

/-- R14 of the mode entered holds the return address (R545, R546). -/
theorem State.enter_reg_link (s : State) (e : Exception) (a : Word) : (s.enter e).reg 14#4 a = s.returnAddress e := by
  rw [State.reg_eq (physical_link _), State.enter_cpsr, State.enter_regs, Regs.get_set_same]

/-- The SPSR of the mode entered holds the CPSR of before (R545). -/
theorem State.enter_spsr (s : State) (e : Exception) :
    (s.enter e).spsrs.get? (s.enter e).cpsr.mode = some s.cpsr.saved := by
  rw [State.enter_spsrs, State.enter_cpsr, Spsrs.get?_set, if_pos ⟨rfl, e.mode_banked⟩]

/-- A CPSR-restoring opcode right after an entry: the CPSR of before the entry, and the PC its result, when that is
aligned (R184, R570). -/
theorem return_after_enter (s : State) (e : Exception) {op : AluOp} {f : Op2Form} {rn : Reg} {target : Word}
    (hf : f.allowed) (hop : op.compares = false)
    (hresult : op.result (f.first rn (s.enter e)) (f.second (s.enter e)).value (s.enter e).cpsr.flags.c = target)
    (haligned : alignPc s.cpsr.t target = target) :
    ∃ t : State, exec (op.instr .al true rn 15#4 f) (s.enter e) = .next t ∧ t.cpsr = s.cpsr ∧ t.pc = target ∧
      SameMemory s t := by
  obtain ⟨t, hexec, hcpsr, hpc, -, hmem, -⟩ :=
    aluExceptionReturn op f .al rn (s.enter e) s.cpsr.saved s.cpsr.mode rfl hf hop (s.enter_spsr e) rfl
  refine ⟨t, hexec, hcpsr, ?_, hmem⟩
  rw [hpc, hresult]
  unfold alignPc at haligned
  split at haligned
  case isTrue ht => exact (congrFun (if_pos ht) target).trans haligned
  case isFalse ht => exact (congrFun (if_neg ht) target).trans haligned

/-- The instruction after one at an aligned PC is at an aligned PC (spec/10_state.md R27). -/
theorem alignPc_next (hp : pcAligned s) :
    alignPc s.cpsr.t (s.pc + if s.cpsr.t then 2 else 4) = s.pc + if s.cpsr.t then 2 else 4 := by
  refine (alignPc_pc_iff (s.advance _)).mpr ?_
  have h2 : (2 : Word).toNat = 2 := rfl
  have h4 : (4 : Word).toNat = 4 := rfl
  unfold pcAligned at hp ⊢
  rw [State.advance_cpsr, State.advance_pc, BitVec.toNat_add]
  split at hp
  case isTrue ht => simp only [ht, if_true, h2]; omega
  case isFalse ht => simp only [ht, if_false, h4, Bool.false_eq_true]; omega

/-- SWI in either state (R157, R515). -/
theorem exec_swi_either {i : Instr}
    (hi : s.cpsr.t = false ∧ (∃ n : BitVec 24, i = .swi .al n) ∨ s.cpsr.t = true ∧ ∃ n : BitVec 8, i = .tSwi n) :
    exec i s = .next (s.enter .softwareInterrupt) := by
  rcases hi with ⟨-, n, rfl⟩ | ⟨-, n, rfl⟩
  · exact exec_swi_pass rfl
  · rfl

/-- Settles O17: MOVS PC,R14 gives back the return address of a SWI, and SUBS PC,R14,#4 that of an IRQ less 4
(`return_after_enter`). -/
theorem exceptionsReturn : Obligations.ExceptionsReturn := by
  refine ⟨fun i s hp hi => ?swi, fun s hp hr hq hirq hi => ?irq⟩
  case swi =>
    obtain ⟨t, h⟩ := return_after_enter s .softwareInterrupt (op := .mov) (f := .shImm ⟨14#4, .lsl, 0#5⟩) (rn := 0#4)
      trivial rfl (s.enter_reg_link .softwareInterrupt 8) (alignPc_next hp)
    exact ⟨_, t, exec_swi_either hi, h⟩
  case irq =>
    have hresult : (s.sampled.enter .irq).reg 14#4 8 - Op2Imm.value ⟨0#4, 4#8⟩ = s.pc := by
      rw [State.enter_reg_link]
      exact BitVec.add_sub_cancel s.pc 4
    obtain ⟨t, h⟩ := return_after_enter s.sampled .irq (op := .sub) (f := .imm ⟨0#4, 4#8⟩) trivial rfl hresult
      ((alignPc_pc_iff s).mpr hp)
    exact ⟨_, t, step_of_irq hr hq hirq hi, h⟩

end Sys2Proof.Machine
end

section
/-! PROOFS. THUMB register operations (spec/48_thumb_register_ops.md, spec/49_thumb_memory_branch.md R485 to R490): each
instruction of a view is one shared operation on the view's operands. -/

namespace Sys2Proof.Machine

variable {i : Instr} {s : State}

/-! ## Registers and immediates -/

/-- A 3bit field names one of R0 to R7 (R370). -/
theorem lo_ne_r15 (r : LoReg) : lo r ≠ 15#4 := by revert r; decide

/-- A register other than R15 reads the same however far ahead the PC is read. -/
theorem State.reg_ahead {r : Reg} (hr : r ≠ 15#4) (s : State) (a b : Word) : s.reg r a = s.reg r b := by
  rw [s.reg_eq_ite r a, s.reg_eq_ite r b, if_neg hr, if_neg hr]

/-- An immediate, scaled: the exact product, in 32bit arithmetic. -/
theorem zext_mul_ofNat {n : Nat} (v : BitVec n) (k : Nat) :
    zext v * BitVec.ofNat 32 k = BitVec.ofNat 32 (v.toNat * k) := by
  simp [zext, BitVec.ofNat_mul]

theorem mul_eq_ofNat (a b : Word) : a * b = BitVec.ofNat 32 (a.toNat * b.toNat) := by simp [BitVec.ofNat_mul]

/-! ## How the operations end -/

/-- A register and the flags written, and the next instruction (R370, R371). -/
theorem State.thumbWrite_ends (s : State) (rd : LoReg) (r : AluResult) :
    ∃ t : State, s.thumbWrite rd r = .next t ∧ WritesReg s t (lo rd) r.value ∧
      t.cpsr = { s.cpsr with flags := r.flags } ∧ t.pc = s.pc + 2 ∧ SameMemory s t ∧ SameRest s t := by
  refine ⟨_, rfl, s.setReg_get (lo rd) r.value, ?cpsr, ?pc, fun a => ?mem, s.setReg_sameRest (lo rd) r.value⟩
  case cpsr | pc | mem => simp

/-- A register written without flags; R15 is a branch, aligned to 2 (R421, R423). -/
theorem State.thumbHiWrite_ends (s : State) (d : Reg) (v : Word) :
    ∃ t : State, s.thumbHiWrite d v = .next t ∧ WritesReg s t d v ∧ t.cpsr = s.cpsr ∧
      (if d = 15#4 then t.pc.toNat = v.toNat / 2 * 2 else t.pc = s.pc + 2) ∧ SameMemory s t ∧ SameRest s t := by
  by_cases hd : d = 15#4
  · subst hd
    exact ⟨_, rfl, .of_r15 (fun _ => rfl) v, rfl, alignPc_toNat true v, fun _ => rfl, (SameRest.refl s).branchTo _⟩
  · simp only [State.thumbHiWrite, if_neg hd]
    refine ⟨_, rfl, s.setReg_get d v, ?cpsr, ?pc, fun a => ?mem, (s.setReg_sameRest d v).advance⟩
    case cpsr | pc | mem => simp

/-! ## The instructions of each view -/

/-- Formats 2 to 4: the result and the flags of the opcode; NEG is the subtraction from 0 (R381 to R412). -/
theorem exec_thumbAluView {op : AluOp} {rd : LoReg} {a b : Word} (h : thumbAluView s i = some (op, rd, a, b)) :
    exec i s =
      s.thumbWrite rd ⟨op.result a b s.cpsr.flags.c, op.flags s.cpsr.flags a b s.cpsr.flags.c⟩ := by
  rw [← AluOp.fn_eq]
  cases i with
  | tAddReg | tSubReg | tAddImm3 | tSubImm3 | tMovImm8 | tAddImm8 | tSubImm8 | tAnd | tEor | tAdc | tSbc | tNeg | tOrr
  | tBic | tMvn => cases h; rfl
  | _ => cases h

/-- The compares: the flags of the opcode (R388, R405, R407, R408, R422). -/
theorem exec_thumbCompareView {op : AluOp} {a b : Word} (h : thumbCompareView s i = some (op, a, b)) :
    exec i s = .next ((s.setFlags (op.flags s.cpsr.flags a b s.cpsr.flags.c)).advance 2) := by
  have hflags : op.flags s.cpsr.flags a b s.cpsr.flags.c = (op.fn s.cpsr.flags a ⟨b, s.cpsr.flags.c⟩).flags := by
    rw [AluOp.fn_eq]
  rw [hflags]
  cases i with
  | tCmpImm8 | tTst | tCmpReg | tCmn | tCmpHiDst | tCmpHiSrc => cases h; rfl
  | _ => cases h

/-- The shifts: N and Z of the result, the shifter carry (R376 to R378, R399 to R404). -/
theorem exec_thumbShiftView {rd : LoReg} {r : Shifted} (h : thumbShiftView s i = some (rd, r)) :
    exec i s = s.thumbWrite rd (logical s.cpsr.flags r.value r.carry) := by
  cases i with
  | tLslImm | tLsrImm | tAsrImm | tLslReg | tLsrReg | tAsrReg | tRor => cases h; rfl
  | _ => cases h

/-- Format 5 ADD and MOV; formats 12 and 13, which write R0 to R7 or R13 (R421, R423, R485 to R490). -/
theorem exec_thumbMoveView {d : Reg} {v : Word} (h : thumbMoveView s i = some (d, v)) :
    exec i s = s.thumbHiWrite d v := by
  have write {r : Reg} (x : Word) (hr : r ≠ 15#4) : s.thumbHiWrite r x = .next ((s.setReg r x).advance 2) := if_neg hr
  cases i with
  | tAddHiDst | tAddHiSrc | tMovHiDst | tMovHiSrc => cases h; rfl
  | tAddPc rd nn | tAddSp rd nn =>
    cases h
    rw [write _ (lo_ne_r15 rd), ← zext_mul_ofNat]
    rfl
  | tSpAdd nn | tSpSub nn =>
    cases h
    rw [write _ (by decide), ← zext_mul_ofNat]
    rfl
  | _ => cases h

/-! ## The statements -/

/-- Settles O51: `exec_thumbAluView` and `exec_thumbCompareView`. -/
theorem thumbDataProcessing : Obligations.ThumbDataProcessing := by
  refine ⟨fun i op rd a b s hv => ?alu, fun i op a b s hv => ?compare⟩
  case alu =>
    rw [exec_thumbAluView hv]
    exact s.thumbWrite_ends rd _
  case compare =>
    exact ⟨_, exec_thumbCompareView hv, fun _ => rfl, rfl, rfl, fun _ => rfl, SameRest.refl s⟩

/-- Settles O52: the shifts by `exec_thumbShiftView`; MUL differs from a write of register and flags by the free value
that it uses up. -/
theorem thumbShiftsAndMultiply : Obligations.ThumbShiftsAndMultiply := by
  refine ⟨fun i rd r s hv => ?shift, fun rs rd s => ?mul⟩
  case shift =>
    rw [exec_thumbShiftView hv]
    exact s.thumbWrite_ends rd _
  case mul =>
    rw [← mul_eq_ofNat]
    refine ⟨_, rfl, s.setReg_get (lo rd) _, ?cpsr, ?pc, fun a => ?mem, (s.setReg_sameRest (lo rd) _)⟩
    case cpsr =>
      simp only [State.advance_cpsr, State.drawn_cpsr, State.setFlags_cpsr, State.setReg_cpsr]
      rfl
    case pc | mem => simp

/-- Settles O53: each form writes one register without flags (`exec_thumbMoveView`). -/
theorem thumbMoves : Obligations.ThumbMoves := by
  intro i d v s hv
  rw [exec_thumbMoveView hv]
  exact s.thumbHiWrite_ends d v

/-- Settles O58: T and the PC from the value, `alignPc_toNat` by its bit 0. -/
theorem thumbBx : Obligations.ThumbBx := by
  intro rs s v
  exact ⟨s.exchange v, rfl, rfl, alignPc_toNat _ v, fun _ => rfl, fun _ => rfl, s.exchange_sameRest v⟩

end Sys2Proof.Machine
end

section
/-! PROOFS. THUMB loads, stores and branches (spec/49_thumb_memory_branch.md R450 to R482, R510 to R522). -/

namespace Sys2Proof.Machine

variable {i : Instr} {s : State}

/-! ## Loads and stores -/

theorem exec_thumbLoadView {k : LoadKind} {rd : LoReg} {ea : Word} (h : thumbLoadView s i = some (k, rd, ea)) :
    exec i s = s.thumbLoad k rd ea := by
  cases i with
  | tLdrPc | tLdrReg | tLdrbReg | tLdsbReg | tLdrhReg | tLdshReg | tLdrImm | tLdrbImm | tLdrhImm | tLdrSp =>
    cases h; rfl
  | _ => cases h

theorem exec_thumbStoreView {k : StoreKind} {rd : LoReg} {ea : Word} (h : thumbStoreView s i = some (k, rd, ea)) :
    exec i s = s.thumbStore k rd ea := by
  cases i with
  | tStrReg | tStrbReg | tStrhReg | tStrImm | tStrbImm | tStrhImm | tStrSp => cases h; rfl
  | _ => cases h

/-- What each kind of load delivers (spec/20_memory.md R65, R66, R67, R70). -/
theorem LoadKind.deliver_eq (k : LoadKind) (s : State) (ea : Word) :
    k.deliver ea (s.mem.read (k.address ea) (k.width ea)) = loadedValue s k ea := by
  cases k with
  | word => exact SingleOp.Loads.ldr.deliver_eq s ea
  | byte => exact SingleOp.Loads.ldrb.deliver_eq s ea
  | half => exact HalfLoad.ldrh.deliver_eq s ea
  | signedByte => exact HalfLoad.ldrsb.deliver_eq s ea
  | signedHalf => exact HalfLoad.ldrsh.deliver_eq s ea

theorem WritesRegAndBase.writesReg {t : State} {rd rn : Reg} {v idx : Word}
    (h : WritesRegAndBase s t rd v rn false idx) : WritesReg s t rd v := by
  intro g
  simpa using h g

theorem WritesBase.sameRegs {t : State} {rn : Reg} {idx : Word} (h : WritesBase s t rn false idx) :
    SameRegs s t := by
  intro g
  simpa using h g

/-- Settles O54: each form is the one load of its view, without write-back (`State.load_ends`). -/
theorem thumbLoads : Obligations.ThumbLoads := by
  intro i k rd ea s hv hram
  rw [exec_thumbLoadView hv, ← k.deliver_eq]
  obtain ⟨t, hload, hreg, hcpsr, hmem, hrest⟩ :=
    State.load_ends (user := s.userMode) (size := 2) (rn := 0) (rd := lo rd) (wb := false) (idx := 0) hram
  rw [if_neg (lo_ne_r15 rd)] at hreg
  obtain ⟨hpc, hregs⟩ := hreg
  exact ⟨t, hload, hregs.writesReg, hcpsr, hpc, hmem, hrest⟩

/-- Settles O55: each form is the one store of its view, without write-back (`State.store_ends`). -/
theorem thumbStores : Obligations.ThumbStores := by
  intro i k rd ea s hv hwf hram
  rw [exec_thumbStoreView hv, State.reg_ahead (lo_ne_r15 rd) s 4 12]
  obtain ⟨t, hstore, hholds, houtside, hbase, hcpsr, hpc, hrest⟩ :=
    State.store_ends (size := 2) (rn := 0) (rd := lo rd) (wb := false) (idx := 0) hwf hram
  exact ⟨t, hstore, hholds, houtside, hbase.sameRegs, hcpsr, hpc, hrest⟩

/-! ## Branches -/

theorem exec_thumbBranchView {c : Cond} {off : BitVec 8} (h : thumbBranchView i = some (c, off)) :
    exec i s = s.thumbCondBranch c off := by
  cases i with
  | tBeq | tBne | tBcs | tBcc | tBmi | tBpl | tBvs | tBvc | tBhi | tBls | tBge | tBlt | tBgt | tBle => cases h; rfl
  | _ => cases h

/-- The target of a THUMB branch (R510, R518). -/
theorem thumb_target_eq {n : Nat} (pc : Word) (off : BitVec n) :
    pc + 4 + sext off * 2 = pc + 4 + BitVec.ofInt 32 (off.toInt * 2) :=
  congrArg (pc + 4 + ·) (sext_mul_ofInt off 2)

/-- Settles O56: taken, a branch to `thumb_target_eq`; not taken, the next instruction. -/
theorem thumbBranches : Obligations.ThumbBranches := by
  refine ⟨fun i c off s hv => ?conditional, fun off s => ?b⟩
  case conditional =>
    rw [exec_thumbBranchView hv, State.thumbCondBranch]
    split
    case isTrue =>
      exact ⟨_, rfl, thumb_target_eq s.pc off, fun _ => rfl, rfl, fun _ => rfl, (SameRest.refl s).branchTo _⟩
    case isFalse => exact ⟨_, rfl, rfl, fun _ => rfl, rfl, fun _ => rfl, (SameRest.refl s).advance⟩
  case b => exact ⟨_, rfl, thumb_target_eq s.pc off, fun _ => rfl, rfl, fun _ => rfl, (SameRest.refl s).branchTo _⟩

/-! ## BL -/

/-- What the first half adds to the PC: the exact product (R520). -/
theorem sext_shiftLeft_eq_ofInt (high : BitVec 11) : sext high <<< 12 = BitVec.ofInt 32 (high.toInt * 2 ^ 12) := by
  rw [BitVec.shiftLeft_eq_mul_twoPow, ← sext_mul_ofInt]
  rfl

/-- What the second half adds to LR: the exact product (R521). -/
theorem zext_shiftLeft_eq_ofNat (low : BitVec 11) : zext low <<< 1 = BitVec.ofNat 32 (low.toNat * 2) := by
  rw [BitVec.shiftLeft_eq_mul_twoPow, ← zext_mul_ofNat]
  rfl

theorem exec_blFirst (high : BitVec 11) (s : State) :
    exec (.tBlFirst high) s =
      .next ((s.setReg 14#4 (s.pc + 4 + BitVec.ofInt 32 (high.toInt * 2 ^ 12))).advance 2) := by
  rw [← sext_shiftLeft_eq_ofInt]
  rfl

theorem exec_blSecond (low : BitVec 11) (s : State) :
    exec (.tBlSecond low) s =
      .next ((s.setReg 14#4 ((s.pc + 2) ||| 1#32)).branchTo
        (alignHalf (s.reg 14#4 4 + BitVec.ofNat 32 (low.toNat * 2)))) := by
  rw [← zext_shiftLeft_eq_ofNat]
  rfl

/-- From an even PC both halves add even numbers, so that nothing is rounded (R522). -/
theorem bl_target_aligned {pc : Word} (hpc : pc.toNat % 2 = 0) (high low : BitVec 11) :
    alignHalf (pc + 4 + BitVec.ofInt 32 (high.toInt * 2 ^ 12) + BitVec.ofNat 32 (low.toNat * 2)) =
      pc + 4 + BitVec.ofInt 32 (high.toInt * 2 ^ 12) + BitVec.ofNat 32 (low.toNat * 2) := by
  have h4 : (4 : Word).toNat = 4 := rfl
  rw [← sext_shiftLeft_eq_ofInt, shiftLeft_eq_ofNat, ← BitVec.toNat_inj, alignHalf_toNat]
  simp only [BitVec.toNat_add, BitVec.toNat_ofNat, h4]
  omega

/-- Settles O57: each half by its next state; the second finds in R14 what the first has put there. -/
theorem thumbBl : Obligations.ThumbBl := by
  intro high low s
  refine ⟨⟨_, exec_blFirst high s, s.setReg_get 14#4 _, ?_, ?_, fun a => ?_, (s.setReg_sameRest 14#4 _).advance⟩,
    ⟨_, exec_blSecond low s, s.setReg_get 14#4 _, alignPc_toNat true _, ?_, fun a => ?_,
      (s.setReg_sameRest 14#4 _).branchTo _⟩,
    fun hpc => ⟨_, _, exec_blFirst high s, exec_blSecond low _, ?target, fun g => ?link, ?_, fun a => ?_⟩⟩
  case target =>
    rw [State.branchTo_pc, ← bl_target_aligned hpc, State.reg_ahead (by decide) _ 4 0]
    congr 2
    exact (State.reg_setReg s 14#4 _ 14#4 0 (by decide)).trans (if_pos rfl)
  case link =>
    have hnext : s.pc + 2#32 + 2#32 = s.pc + 4#32 := BitVec.add_assoc s.pc 2#32 2#32
    by_cases hg : physical s.cpsr.mode 14#4 = some g <;> simp [State.setReg_get, hnext, hg]
  all_goals simp

end Sys2Proof.Machine
end

section
/-! PROOFS. Aborted data accesses (spec/60_exceptions.md R552): what each kind of transfer has done when it takes the
Data Abort. -/

namespace Sys2Proof.Machine

variable {i : Instr} {s u : State} {rn rd : Reg}

/-! ## The entry -/

/-- An instruction that ends in the Data Abort entry from `u`, the PC and the CPSR being as before (R545, R546). -/
theorem dataAborts_of_enter (hexec : exec i s = .next (u.enter .dataAbort)) (hcpsr : u.cpsr = s.cpsr)
    (hpc : u.pc = s.pc) : DataAborts i s u (u.enter .dataAbort) :=
  ⟨hcpsr, hpc, hexec, State.enter_entered (congrArg (· + 8) hpc)⟩

theorem dataAborts_self (hexec : exec i s = .next (s.enter .dataAbort)) : ∃ t : State, DataAborts i s s t :=
  ⟨_, dataAborts_of_enter hexec rfl rfl⟩

/-! ## Single transfers and swaps -/

/-- An aborted load still writes the base back, and that is all (R552). -/
theorem State.load_aborts {k : LoadKind} {user : Bool} {size : Word} {a : Addressing}
    (h : s.aborts .read user a.ea (k.width a.ea) = true) :
    s.load k user size rn rd a = .next ((s.writeBack rn a).enter .dataAbort) := by
  simp [State.load, State.busRead, h]

/-- An aborted store still writes the base back, and that is all (R552). -/
theorem State.store_aborts {k : StoreKind} {user : Bool} {size : Word} {a : Addressing}
    (h : s.aborts .write user a.ea k.width = true) :
    s.store k user size rn rd a = .next ((s.writeBack rn a).enter .dataAbort) := by
  simp [State.store, State.busWrite, h]

/-- What an aborted single transfer leaves: the base, where the form writes it back. -/
theorem writeBack_dataAborts {ea idx : Word} {wb : Bool}
    (hexec : exec i s = .next ((s.writeBack rn ⟨ea, if wb then some idx else none⟩).enter .dataAbort)) :
    ∃ u t : State, WritesBase s u rn wb idx ∧ SameRest s u ∧ SameMemory s u ∧ DataAborts i s u t :=
  ⟨_, _, s.writeBack_writesBase rn wb ea idx, (SameRest.refl s).writeBack, fun a => by simp,
    dataAborts_of_enter hexec (by simp) (by simp)⟩

/-- LDR, LDRB, STR and STRB in each form (R264). -/
theorem exec_single_aborts {op : SingleOp} {f : SingleForm} {c : Cond} {up : Bool}
    (hc : condPassed c s.cpsr.flags = true) (hf : f.allowed rn rd)
    (ha : s.aborts (if op = .ldr ∨ op = .ldrb then .read else .write) (f.user s) (f.ea up rn s) op.width = true) :
    exec (op.instr c up rn rd f) s = .next ((s.writeBack rn (f.addressing up rn s)).enter .dataAbort) := by
  cases op with
  | ldr => exact (exec_singleLoad .ldr hc hf).trans (State.load_aborts ha)
  | ldrb => exact (exec_singleLoad .ldrb hc hf).trans (State.load_aborts ha)
  | str => exact (exec_singleStore .str hc hf).trans (State.store_aborts ha)
  | strb => exact (exec_singleStore .strb hc hf).trans (State.store_aborts ha)

/-- LDRH, LDRSB, LDRSH and STRH in each form (R293). -/
theorem exec_half_aborts {f : HalfForm} {c : Cond} {ix : HalfIndex} {up : Bool}
    (hc : condPassed c s.cpsr.flags = true) (hf : f.allowed ix rn rd)
    (ha : (∃ op : HalfLoad, i = op.instr c ix up rn rd f ∧
        s.aborts .read s.userMode (f.ea ix up rn s) (op.width (f.ea ix up rn s)) = true) ∨
      (i = strhInstr c ix up rn rd f ∧ s.aborts .write s.userMode (f.ea ix up rn s) .half = true)) :
    exec i s = .next ((s.writeBack rn (f.addressing ix up rn s)).enter .dataAbort) := by
  rcases ha with ⟨op, rfl, ha⟩ | ⟨rfl, ha⟩
  · rw [← op.width_eq] at ha
    rw [exec_halfLoad, HalfForm.transfer_pass hc hf]
    exact State.load_aborts ha
  · rw [exec_strh, HalfForm.transfer_pass hc hf]
    exact State.store_aborts (k := .half) ha

/-- SWP and SWPB, whichever access aborts: the write comes before Rd is written (R341, R342). -/
theorem State.swap_aborts {op : SingleOp} {k : LoadKind} {st : StoreKind} {rm : Reg} (hop : op.Swaps k st)
    (hrn : rn ≠ 15#4) (hrd : rd ≠ 15#4) (hrm : rm ≠ 15#4)
    (h : s.aborts .read s.userMode (s.reg rn 8) op.width = true ∨
      ReachesRam s .read s.userMode (s.reg rn 8) (op.address (s.reg rn 8)) op.width ∧
        s.aborts .write s.userMode (s.reg rn 8) op.width = true) :
    s.swap k st rn rd rm = .next (s.enter .dataAbort) := by
  have hallowed : (rn == 15#4 || rd == 15#4 || rm == 15#4) = false := by simp [hrn, hrd, hrm]
  rw [State.swap, hallowed, refuseIf_false]
  simp only [hop.loads.address_eq, hop.loads.width_eq, hop.address_eq, hop.width_eq]
  rcases h with hread | ⟨hread, hwrite⟩
  · simp only [State.busRead, hread, if_true]
  · simp only [State.busRead_ram hread, State.busWrite, hwrite, if_true]

/-! ## The words of a transfer in its run -/

/-- Of the words `moved` of a transfer, in ascending order, `place` says where each stands in a run of `n`. -/
structure Placed (moved : Nat → Prop) (place : Nat → Nat) (n : Nat) : Prop where
  lt : ∀ k : Nat, moved k → place k < n
  mono : ∀ j k : Nat, moved j → moved k → j < k → place j < place k
  onto : ∀ m : Nat, m < n → ∃ k : Nat, moved k ∧ place k = m

theorem Placed.range (n : Nat) : Placed (· < n) (fun k => k) n :=
  ⟨fun _ hk => hk, fun _ _ _ _ h => h, fun m hm => ⟨m, hm, rfl⟩⟩

theorem rank_succ (list : BitVec 16) (k : Nat) :
    rank list (k + 1) = rank list k + (list.getLsbD k).toNat := by
  rw [rank, rank, List.range_succ, List.filter_append, List.length_append]
  cases h : list.getLsbD k <;> simp [h]

theorem rank_mono (list : BitVec 16) : Monotone (rank list) :=
  monotone_nat_of_le_succ fun k => by rw [rank_succ]; exact Nat.le_add_right _ _

theorem rank_lt_rank {list : BitVec 16} {j k : Nat} (hj : list.getLsbD j = true) (h : j < k) :
    rank list j < rank list k := by
  have hle := rank_mono list h
  rw [Nat.succ_eq_add_one, rank_succ, hj] at hle
  exact hle

/-- A listed register's number as a register. -/
theorem exists_reg_of_listed {list : BitVec 16} {k : Nat} (hk : list.getLsbD k = true) :
    ∃ r : Reg, r = BitVec.ofNat 4 k ∧ r.toNat = k :=
  ⟨_, rfl, (BitVec.toNat_ofNat ..).trans (Nat.mod_eq_of_lt (BitVec.lt_of_getLsbD hk))⟩

/-- A listed register stands at its rank (spec/46_arm_block_transfer.md R312). -/
theorem Placed.listed (list : BitVec 16) :
    Placed (fun k => list.getLsbD k = true) (rank list) (listed list).length where
  lt k hk := by
    obtain ⟨r, -, rfl⟩ := exists_reg_of_listed hk
    rw [listed_length]
    exact rank_lt list r hk
  mono _ _ hj _ h := rank_lt_rank hj h
  onto m hm := by
    obtain ⟨r, hr, hrank⟩ := exists_listed_of_lt_length hm
    exact ⟨r.toNat, hr, hrank⟩

section Run

variable {kind : AccessKind} {moved : Nat → Prop} {place : Nat → Nat} {n j : Nat} {addr : Word}

/-- The first word of a transfer to abort is the first of its run. -/
theorem FirstAbort.run (hp : Placed moved place n)
    (h : FirstAbort s kind moved (fun k => wordAddress addr (place k)) j) :
    place j < n ∧ s.aborts kind s.userMode (wordAddress addr (place j)) .word = true ∧
      (∀ m : Nat, m < place j → s.aborts kind s.userMode (wordAddress addr m) .word = false) ∧
      ∀ m : Nat, m < n → s.isDevice (wordAddress addr m) = false := by
  obtain ⟨hj, habort, hbefore, hram⟩ := h
  refine ⟨hp.lt j hj, habort, fun m hm => ?before, fun m hm => ?ram⟩
  case before =>
    obtain ⟨k, hk, rfl⟩ := hp.onto m (hm.trans (hp.lt j hj))
    refine hbefore k hk (lt_of_not_ge fun hjk => ?_)
    rcases hjk.eq_or_lt with rfl | hlt
    · exact lt_irrefl _ hm
    · exact lt_asymm hm (hp.mono j k hj hk hlt)
  case ram =>
    obtain ⟨k, hk, rfl⟩ := hp.onto m hm
    exact hram k hk

/-- Loads up to the first word that aborts (R315, R552). -/
theorem State.loadWords_firstAbort (hp : Placed moved place n)
    (h : FirstAbort s .read moved (fun k => wordAddress addr (place k)) j) :
    s.loadWords s.userMode addr n =
      ⟨(List.range (place j)).map fun k => s.mem.read (wordAddress addr k) .word, true, s⟩ := by
  obtain ⟨hj, habort, hbefore, hram⟩ := h.run hp
  exact State.loadWords_abort s.userMode n (place j) s addr hj
    (fun k hk => ⟨hbefore k hk, hram k (hk.trans hj)⟩) habort

/-- Stores of which one aborts: the words before it are stored, each after it is stored or not (R314, R552). -/
theorem State.storeWords_firstAbort {vs : List Word} {value : Nat → Word} (hp : Placed moved place vs.length)
    (hvalue : ∀ k : Nat, moved k → vs[place k]? = some (value k))
    (h : FirstAbort s .write moved (fun k => wordAddress addr (place k)) j) :
    ∃ u : State, s.storeWords s.userMode addr vs = (true, u) ∧ ScatteredRun s u addr vs ∧
      (s.mem.wf = true → vs.length ≤ 2 ^ 30 →
        StoredUpTo s u moved (fun k => wordAddress addr (place k)) value j) := by
  obtain ⟨hlt, habort, hbefore, hram⟩ := h.run hp
  obtain ⟨hj, -⟩ := h
  obtain ⟨haborted, hrun, houtside, hstored⟩ :=
    State.storeWords_abort s.userMode vs (place j) s addr hlt hbefore habort hram
  refine ⟨_, Prod.ext haborted rfl, hrun, fun hwf hlen => ⟨fun k hk hkj => ?before, fun k hk _ => ?after,
    fun a ha => ?outside⟩⟩
  case before => exact hstored hwf hlen (place k) _ (hp.mono k j hk hj hkj) (hvalue k hk)
  case after => exact hrun.either hwf hlen (place k) _ (hvalue k hk)
  case outside =>
    refine houtside a fun m hm hne => ?_
    obtain ⟨k, hk, rfl⟩ := hp.onto m hm
    exact ha k hk fun hkj => hne (congrArg place hkj)

end Run

/-- What aborted stores leave is read off memory alone. -/
theorem StoredUpTo.of_mem {v : State} {moved : Nat → Prop} {address value : Nat → Word} {j : Nat}
    (h : StoredUpTo s u moved address value j) (hmem : v.mem = u.mem) : StoredUpTo s v moved address value j := by
  simpa only [StoredUpTo, Holds, hmem] using h

theorem ScatteredRun.sameRest {addr : Word} {vs : List Word} (h : ScatteredRun s u addr vs) : SameRest s u :=
  ⟨h.quiet.spsrs, h.quiet.platform, h.quiet.inputs, h.deviceLog, h.coprocLog, h.userLdm⟩

/-! ## Block transfers -/

variable {b : BlockView} {j : Nat}

/-- STM, STM^, PUSH and STMIA: the base is written back after the words (R552). -/
theorem storeView_dataAborts (hwf : i.wellFormed = true) (hc : condHolds i s) (hv : storeView s i = some b)
    (hmem : s.mem.wf = true) (h : FirstAbort s .write (fun k => b.list.getLsbD k = true) b.address j) :
    ∃ u t : State,
      StoredUpTo s u (fun k => b.list.getLsbD k = true) b.address (fun k => b.stored s (BitVec.ofNat 4 k)) j ∧
      WritesBase s u b.base b.wb b.newBase ∧ SameRest s u ∧ DataAborts i s u t := by
  have hlength : (b.storedWords s).length = (listed b.list).length := BlockView.storedWords_length
  have hvalue (k : Nat) (hk : b.list.getLsbD k = true) :
      (b.storedWords s)[rank b.list k]? = some (b.stored s (BitVec.ofNat 4 k)) := by
    obtain ⟨r, hr, rfl⟩ := exists_reg_of_listed hk
    rw [← hr]
    exact BlockView.storedWords_getElem hk
  obtain ⟨v, hwords, hrun, hstored⟩ :=
    State.storeWords_firstAbort (hlength ▸ Placed.listed b.list) hvalue h
  have hshort : (b.storedWords s).length ≤ 2 ^ 30 := by
    have := rank_le b.list
    rw [hlength, listed_length]
    omega
  have hexec : exec i s = .next ((v.blockBase b.block).enter .dataAbort) := by
    have hrun' : s.storeWords s.userMode b.block.start ((listed b.block.list).map (s.blockValue b.bank b.block)) =
        (true, v) := hwords
    rw [exec_storeView hwf hc hv, State.storeBlock, hrun']
  refine ⟨_, _, (hstored hmem hshort).of_mem (State.blockBase_mem v b.block), fun g => ?base, hrun.sameRest.blockBase,
    dataAborts_of_enter hexec (by simp [hrun.quiet.cpsr]) (by simp [hrun.quiet.pc])⟩
  case base =>
    rw [State.blockBase_get, hrun.regs, hrun.quiet.cpsr]
    rfl

@[simp] theorem State.spoilRegsIn_mem (m : Mode) : ∀ (rs : List Reg) (vs : List Word) (s : State),
    (s.spoilRegsIn m rs vs).mem = s.mem
  | [], _, s => by simp [State.spoilRegsIn]
  | r :: rs, [], s => by simp [State.spoilRegsIn, State.spoilRegsIn_mem m rs]
  | r :: rs, v :: vs, s => by simp [State.spoilRegsIn, State.spoilRegsIn_mem m rs vs]
@[simp] theorem State.spoilRegsIn_pc (m : Mode) : ∀ (rs : List Reg) (vs : List Word) (s : State),
    (s.spoilRegsIn m rs vs).pc = s.pc
  | [], _, s => by simp [State.spoilRegsIn]
  | r :: rs, [], s => by simp [State.spoilRegsIn, State.spoilRegsIn_pc m rs]
  | r :: rs, v :: vs, s => by simp [State.spoilRegsIn, State.spoilRegsIn_pc m rs vs]
@[simp] theorem State.spoilRegsIn_cpsr (m : Mode) : ∀ (rs : List Reg) (vs : List Word) (s : State),
    (s.spoilRegsIn m rs vs).cpsr = s.cpsr
  | [], _, s => by simp [State.spoilRegsIn]
  | r :: rs, [], s => by simp [State.spoilRegsIn, State.spoilRegsIn_cpsr m rs]
  | r :: rs, v :: vs, s => by simp [State.spoilRegsIn, State.spoilRegsIn_cpsr m rs vs]

/-- The state from which an aborted block load takes the Data Abort: the listed registers spoiled, the base new or
old. -/
def BlockView.spoiled (b : BlockView) (s : State) (words : List Word) : State :=
  (s.spoilRegsIn b.bank (listed b.list) words).setReg b.base (if b.wb then b.newBase else s.reg b.base 0)

theorem BlockView.spoiled_get (b : BlockView) (s : State) (words : List Word) (g : GReg) :
    (b.spoiled s words).regs.get g =
      if physical s.cpsr.mode b.base = some g then (if b.wb then b.newBase else s.reg b.base 0)
      else (s.spoilRegsIn b.bank (listed b.list) words).regs.get g := by
  rw [BlockView.spoiled, State.setReg_get, State.spoilRegsIn_cpsr]

/-- The words read before register `j`, lowest register first. -/
def BlockView.loadedBefore (b : BlockView) (s : State) (j : Nat) : List Word :=
  (List.range (rank b.list j)).map fun k => s.mem.read (wordAddress b.start k) .word

theorem BlockView.loadedBefore_getElem {r : Reg} (hr : b.list.getLsbD r.toNat = true) (h : r.toNat < j) :
    (b.loadedBefore s j)[rank b.list r.toNat]? = some (s.mem.read (b.address r.toNat) .word) := by
  rw [loadedBefore, List.getElem?_map, List.getElem?_range (rank_lt_rank hr h)]
  rfl

/-- A block load up to the first word that aborts, whatever it would have ended with (R552). -/
theorem State.loadBlock_firstAbort (h : FirstAbort s .read (fun k => b.list.getLsbD k = true) b.address j)
    (finish : Word → State → Result) :
    s.loadBlock b.bank b.block finish = .next ((b.spoiled s (b.loadedBefore s j)).enter .dataAbort) := by
  have hrun : s.loadWords s.userMode b.block.start (listed b.block.list).length = ⟨b.loadedBefore s j, true, s⟩ :=
    State.loadWords_firstAbort (Placed.listed b.list) h
  simp only [State.loadBlock, hrun, if_true]
  rfl

theorem BlockView.spoiled_abortedRegs (b : BlockView) (s : State) (j : Nat) :
    b.abortedRegs s (b.spoiled s (b.loadedBefore s j)) j := by
  obtain ⟨hloaded, hframe⟩ :=
    State.spoilRegsIn_get b.bank (listed b.list) (b.loadedBefore s j) s (listed_nodup b.list)
  refine ⟨fun g hg => ?base, fun r g hj hr hg hbase => ?loaded, fun g hbase hnone => ?frame⟩ <;>
    rw [BlockView.spoiled_get]
  case base => rw [if_pos hg, State.reg_eq hg]
  case loaded =>
    rw [if_neg hbase]
    exact hloaded _ r _ g (listed_getElem b.list r hr) (BlockView.loadedBefore_getElem hr hj) hg
  case frame =>
    rw [if_neg hbase]
    exact hframe g fun r hr => hnone r (mem_listed.mp hr)

/-- Every LDM, POP and LDMIA is the one load of its view, each with an end of its own. -/
theorem exec_loadsBlock (hwf : i.wellFormed = true) (hc : condHolds i s) (h : loadsBlock s i b) :
    ∃ finish : Word → State → Result, exec i s = (s.marked i).loadBlock b.bank b.block finish := by
  rcases h with hv | ⟨hspsr, c, pre, up, wb, rn, list, rfl, rfl⟩
  · exact ⟨_, (exec_loadView hwf hc hv).exec⟩
  · obtain ⟨p, hp⟩ := Option.ne_none_iff_exists'.mp hspsr
    rw [State.marked_of_not_marks rfl]
    exact ⟨_, exec_ldmPcS_pass (hc c rfl) (Reg.notPc_iff.mp hwf) hp⟩

/-- LDM in every form, POP and LDMIA (R552). -/
theorem loadsBlock_dataAborts (hwf : i.wellFormed = true) (hc : condHolds i s) (hv : loadsBlock s i b)
    (h : FirstAbort s .read (fun k => b.list.getLsbD k = true) b.address j) :
    ∃ u t : State, b.abortedRegs s u j ∧ SameMemory s u ∧ SameRest (s.marked i) u ∧ DataAborts i s u t := by
  obtain ⟨finish, hexec⟩ := exec_loadsBlock hwf hc hv
  have hload := State.loadBlock_firstAbort (s := s.marked i) h finish
  refine ⟨_, _, b.spoiled_abortedRegs (s.marked i) j, fun a => ?_,
    (State.spoilRegsIn_rest b.bank _ _ (s.marked i)).setReg, dataAborts_of_enter (hexec.trans hload) ?_ ?_⟩
  all_goals simp [BlockView.spoiled, State.marked]

/-! ## LDC and STC -/

section Coprocessor

variable {pre up long wb : Bool} {cd p : BitVec 4} {off : BitVec 8} {n : Nat}

/-- An abort that the transfer gets to. -/
theorem AbortsAt.firstAbort {kind : AccessKind} {address : Nat → Word} (h : AbortsAt s kind address j n) (hj : j < n) :
    FirstAbort s kind (· < n) address j := by
  obtain ⟨habort, hbefore, hram⟩ := h
  exact ⟨hj, habort, fun k _ => hbefore k, hram⟩

/-- An abort beyond the words of the transfer: they all reach RAM. -/
theorem AbortsAt.reachesRam {kind : AccessKind} {address : Nat → Word} (h : AbortsAt s kind address j n) (hj : ¬j < n)
    (k : Nat) (hk : k < n) : ReachesRam s kind s.userMode (address k) (address k) .word := by
  obtain ⟨-, hbefore, hram⟩ := h
  exact ⟨hbefore k (lt_of_lt_of_le hk (Nat.le_of_not_lt hj)), hram k hk⟩

/-- LDC and STC, aborted, when their words leave the registers and everything outside memory alone: the coprocessor is
told, and the base written back (R552). -/
theorem coprocTransfer_dataAborts (hregs : u.regs = s.regs) (hcpsr : u.cpsr = s.cpsr) (hpc : u.pc = s.pc)
    (hrest : SameRest s u)
    (hexec : exec i s =
      .next (((u.tell (.aborted p)).writeBack rn (coprocTransfer pre up wb rn off s)).enter .dataAbort)) :
    ∃ v t : State, v.mem = u.mem ∧ WritesBase s v rn wb (coprocIdx up rn off s) ∧ SameRest (s.tell (.aborted p)) v ∧
      DataAborts i s v t := by
  have h := State.endTransfer_ends pre up wb rn off (.aborted p) hregs hcpsr hpc hrest
  exact ⟨_, _, State.writeBack_mem (u.tell (.aborted p)) .., h.base, h.rest,
    dataAborts_of_enter hexec h.cpsr (by simp [hpc])⟩

variable (hn : n = Config.coprocCount s.coprocLog p long cd)

include hn

theorem State.ldc_firstAbort {a : Addressing} (h : FirstAbort s .read (· < n) (wordAddress a.ea) j) :
    s.ldc long rn cd p a = .next (((s.tell (.aborted p)).writeBack rn a).enter .dataAbort) := by
  subst hn
  simp only [State.ldc, State.loadWords_firstAbort (Placed.range _) h, if_true]

theorem State.stc_firstAbort {a : Addressing} (h : FirstAbort s .write (· < n) (wordAddress a.ea) j) :
    ∃ v : State, s.stc long rn cd p a = .next (((v.tell (.aborted p)).writeBack rn a).enter .dataAbort) ∧
      ScatteredRun s v a.ea (coprocWords s long cd p) ∧
      (s.mem.wf = true → n ≤ 2 ^ 30 →
        StoredUpTo s v (· < n) (wordAddress a.ea) (Config.coprocStc s.coprocLog p long cd) j) := by
  have hlength : (coprocWords s long cd p).length = n := coprocWords_length.trans hn.symm
  obtain ⟨v, hwords, hrun, hstored⟩ := State.storeWords_firstAbort (hlength ▸ Placed.range _)
    (fun k hk => coprocWords_getElem (hn ▸ hk)) h
  have hrun' : s.storeWords s.userMode a.ea
      ((List.range (Config.coprocCount s.coprocLog p long cd)).map (Config.coprocStc s.coprocLog p long cd)) =
      (true, v) := hwords
  rw [hlength] at hstored
  exact ⟨v, by simp only [State.stc, hrun'], hrun, hstored⟩

variable {c : Cond} (hc : condPassed c s.cpsr.flags = true) (hp : p ∈ s.platform.coprocs) (hwb : wb = true → rn ≠ 15#4)

include hc hp hwb

theorem ldc_dataAborts (h : AbortsAt s .read (coprocAddress pre up rn off s) j n) (hj : j < n) :
    ∃ u t : State, WritesBase s u rn wb (coprocIdx up rn off s) ∧ SameMemory s u ∧ SameRest (s.tell (.aborted p)) u ∧
      DataAborts (.ldc c pre up long wb rn cd p off) s u t := by
  obtain ⟨u, t, hmem, hbase, hrest, habort⟩ := coprocTransfer_dataAborts rfl rfl rfl (.refl s)
    ((exec_ldc_pass hc hp hwb).trans (State.ldc_firstAbort hn (h.firstAbort hj)))
  exact ⟨u, t, hbase, fun a => congrArg (Memory.get · a) hmem, hrest, habort⟩

theorem ldc_completes (h : AbortsAt s .read (coprocAddress pre up rn off s) j n) (hj : ¬j < n) :
    ∃ t : State, exec (.ldc c pre up long wb rn cd p off) s = .next t ∧ t.cpsr = s.cpsr ∧ t.pc = s.pc + 4 := by
  subst hn
  refine ⟨_, (exec_ldc_pass hc hp hwb).trans (State.ldc_ram (h.reachesRam hj)), ?_, ?_⟩
  all_goals simp [State.endTransfer]

theorem stc_dataAborts (hwf : s.mem.wf = true) (h : AbortsAt s .write (coprocAddress pre up rn off s) j n)
    (hj : j < n) :
    ∃ u t : State,
      (n ≤ 2 ^ 30 → StoredUpTo s u (· < n) (coprocAddress pre up rn off s)
        (Config.coprocStc s.coprocLog p long cd) j) ∧
      WritesBase s u rn wb (coprocIdx up rn off s) ∧ SameRest (s.tell (.aborted p)) u ∧
      DataAborts (.stc c pre up long wb rn cd p off) s u t := by
  obtain ⟨v, hstc, hrun, hstored⟩ :=
    State.stc_firstAbort (rn := rn) (a := coprocTransfer pre up wb rn off s) hn (h.firstAbort hj)
  obtain ⟨u, t, hmem, hbase, hrest, habort⟩ := coprocTransfer_dataAborts hrun.regs hrun.quiet.cpsr hrun.quiet.pc
    hrun.sameRest ((exec_stc_pass hc hp hwb).trans hstc)
  exact ⟨u, t, fun hshort => (hstored hwf hshort).of_mem hmem, hbase, hrest, habort⟩

theorem stc_completes (h : AbortsAt s .write (coprocAddress pre up rn off s) j n) (hj : ¬j < n) :
    ∃ t : State, exec (.stc c pre up long wb rn cd p off) s = .next t ∧ t.cpsr = s.cpsr ∧ t.pc = s.pc + 4 := by
  subst hn
  obtain ⟨u, hrun, hstc⟩ := State.stc_ram (rn := rn) (a := coprocTransfer pre up wb rn off s) (h.reachesRam hj)
  refine ⟨_, (exec_stc_pass hc hp hwb).trans hstc, ?_, ?_⟩
  all_goals simp [State.endTransfer, hrun.quiet.cpsr, hrun.quiet.pc]

end Coprocessor

/-! ## The statement -/

/-- Settles O14, kind by kind: each transfer runs up to the word that aborts, and the entry follows from the
state that it has left. -/
theorem singleDataAbort : Obligations.SingleDataAbort := by
  refine ⟨fun op f c up rn rd s hc hf ha => writeBack_dataAborts (exec_single_aborts hc hf ha),
    fun f c ix up rn rd s i hc hf ha => writeBack_dataAborts (exec_half_aborts hc hf ha),
    fun i rd ea s ha => dataAborts_self ?thumb, fun c rn rd rm s op i hc hrn hrd hrm hi ha => dataAborts_self ?swap,
    fun i b s j hwf hc hv => storeView_dataAborts hwf hc hv, fun i b s j hwf hc hv => loadsBlock_dataAborts hwf hc hv,
    ?_⟩
  case thumb =>
    rcases ha with ⟨k, hv, ha⟩ | ⟨k, hv, ha⟩
    · exact (exec_thumbLoadView hv).trans (State.load_aborts ha)
    · exact (exec_thumbStoreView hv).trans (State.store_aborts ha)
  case swap =>
    obtain ⟨k, st, hop, hexec⟩ := exec_swaps hc hi
    exact hexec.trans (State.swap_aborts hop hrn hrd hrm ha)
  intro c pre up long wb rn cd p off s j hc hp hwb n address
  refine ⟨fun h => ?ldc, fun hwf h => ?stc⟩
  case ldc =>
    split
    case isTrue hj => exact ldc_dataAborts rfl hc hp hwb h hj
    case isFalse hj => exact ldc_completes rfl hc hp hwb h hj
  case stc =>
    split
    case isTrue hj => exact stc_dataAborts rfl hc hp hwb hwf h hj
    case isFalse hj => exact stc_completes rfl hc hp hwb h hj

end Sys2Proof.Machine
end
